-- ==== Sys2Proof/Word.lean ====
section
/-! DEFINITION. The word types of the engine: bytes of `MEM`, 32-bit registers and command words
(spec/00_scope.md R5, spec/10_state.md R21). -/

namespace Sys2Proof

/-- A byte of memory or one 8-bit sample. -/
abbrev Byte := BitVec 8

/-- A 16-bit pixel of RGB565 or RGB555 (spec/20_memory.md R61). -/
abbrev Half := BitVec 16

/-- A 32-bit register or command word. -/
abbrev Word := BitVec 32

end Sys2Proof
end

