-- ==== Sys2Proof/Syntax.lean ====
section
/-! DEFINITION. The syntax of a command: the format tags (spec/30_encoding.md R93), the fields of the command word
(R90), the commands with their tags as operands (R91), and `Instr`, one constructor per row of spec/opcode_table.json
(R100: 101 fully decoded words). -/

namespace Sys2Proof

/-- The RGB-family format tags, in the order of R93. -/
inductive RgbTag where
  | rgb888 | rgb565 | rgb555 | rgb444 | rgb888x
deriving DecidableEq, Repr

/-- The YUV-family format tags, in the order of R93. -/
inductive YuvTag where
  | nv24 | nv42 | yuy2 | yvyu | uyvy | vyuy | p422
  | yv12 | yu12 | nv12 | nv21 | y41p | p411 | yvu9 | yuv9
deriving DecidableEq, Repr

/-- A format tag of either family (R93). -/
inductive Tag where
  | rgb (t : RgbTag)
  | yuv (t : YuvTag)
deriving DecidableEq, Repr

/-- The subsampling classes of the YUV tags (R93's class column; P411 is 4:1:1, spec/90_conflicts.md C2). -/
inductive Subsampling where
  | s444 | s422 | s420 | s411 | s410
deriving DecidableEq, Repr

/-- The six fields of a command word, most significant first (R90). -/
structure Fields where
  /-- bits 31:20, reserved -/
  z3 : BitVec 12
  /-- bits 19:16, the operation -/
  op : BitVec 4
  /-- bits 15:13, reserved -/
  z2 : BitVec 3
  /-- bits 12:8, the second format tag -/
  fb : BitVec 5
  /-- bits 7:5, reserved -/
  z1 : BitVec 3
  /-- bits 4:0, the first format tag -/
  fa : BitVec 5
deriving DecidableEq, Repr

/-- A command with its tags as operands: the four operations of R91. -/
inductive Command where
  | nop
  | reqbytes (t : Tag)
  | normalize (src : RgbTag)
  | convert (src : RgbTag) (dst : YuvTag)
deriving DecidableEq, Repr

/-- Why a word is no command, by the step of R92 that fails. -/
inductive DecodeError where
  /-- step 1: a reserved bit is set (E_OP) -/
  | reservedBitSet
  /-- step 2: OP is 4 to 15 (E_OP) -/
  | reservedOp
  /-- step 3: an unused format field is not 0 (E_OP) -/
  | unusedFieldSet
  /-- step 4: a used format field holds a reserved tag or a tag of the wrong family (E_FMT) -/
  | badFormatTag
deriving DecidableEq, Repr

/-- The instructions: one constructor per row of spec/opcode_table.json, in the table's order. -/
inductive Instr where
  | nop
  | reqbytesRGB888
  | reqbytesRGB565
  | reqbytesRGB555
  | reqbytesRGB444
  | reqbytesRGB888X
  | reqbytesNV24
  | reqbytesNV42
  | reqbytesYUY2
  | reqbytesYVYU
  | reqbytesUYVY
  | reqbytesVYUY
  | reqbytesP422
  | reqbytesYV12
  | reqbytesYU12
  | reqbytesNV12
  | reqbytesNV21
  | reqbytesY41P
  | reqbytesP411
  | reqbytesYVU9
  | reqbytesYUV9
  | normalizeRGB888
  | normalizeRGB565
  | normalizeRGB555
  | normalizeRGB444
  | normalizeRGB888X
  | convertRGB888NV24
  | convertRGB565NV24
  | convertRGB555NV24
  | convertRGB444NV24
  | convertRGB888XNV24
  | convertRGB888NV42
  | convertRGB565NV42
  | convertRGB555NV42
  | convertRGB444NV42
  | convertRGB888XNV42
  | convertRGB888YUY2
  | convertRGB565YUY2
  | convertRGB555YUY2
  | convertRGB444YUY2
  | convertRGB888XYUY2
  | convertRGB888YVYU
  | convertRGB565YVYU
  | convertRGB555YVYU
  | convertRGB444YVYU
  | convertRGB888XYVYU
  | convertRGB888UYVY
  | convertRGB565UYVY
  | convertRGB555UYVY
  | convertRGB444UYVY
  | convertRGB888XUYVY
  | convertRGB888VYUY
  | convertRGB565VYUY
  | convertRGB555VYUY
  | convertRGB444VYUY
  | convertRGB888XVYUY
  | convertRGB888P422
  | convertRGB565P422
  | convertRGB555P422
  | convertRGB444P422
  | convertRGB888XP422
  | convertRGB888YV12
  | convertRGB565YV12
  | convertRGB555YV12
  | convertRGB444YV12
  | convertRGB888XYV12
  | convertRGB888YU12
  | convertRGB565YU12
  | convertRGB555YU12
  | convertRGB444YU12
  | convertRGB888XYU12
  | convertRGB888NV12
  | convertRGB565NV12
  | convertRGB555NV12
  | convertRGB444NV12
  | convertRGB888XNV12
  | convertRGB888NV21
  | convertRGB565NV21
  | convertRGB555NV21
  | convertRGB444NV21
  | convertRGB888XNV21
  | convertRGB888Y41P
  | convertRGB565Y41P
  | convertRGB555Y41P
  | convertRGB444Y41P
  | convertRGB888XY41P
  | convertRGB888P411
  | convertRGB565P411
  | convertRGB555P411
  | convertRGB444P411
  | convertRGB888XP411
  | convertRGB888YVU9
  | convertRGB565YVU9
  | convertRGB555YVU9
  | convertRGB444YVU9
  | convertRGB888XYVU9
  | convertRGB888YUV9
  | convertRGB565YUV9
  | convertRGB555YUV9
  | convertRGB444YUV9
  | convertRGB888XYUV9
deriving DecidableEq, Repr

end Sys2Proof
end

