-- ==== Sys2Proof/Decode.lean ====
section
/-! DEFINITION. Decoding a command word (spec/30_encoding.md R90 to R97) and, after it, encoding. A command is one
32-bit word handed over by the host; it is not read from memory (spec/10_state.md R33), so the decoder takes the word. -/

namespace Sys2Proof

/-- The fields of a word (R90). -/
def Fields.ofWord (k : Word) : Fields :=
  { z3 := k.extractLsb' 20 12, op := k.extractLsb' 16 4, z2 := k.extractLsb' 13 3,
    fb := k.extractLsb' 8 5, z1 := k.extractLsb' 5 3, fa := k.extractLsb' 0 5 }

/-- The number of an RGB-family tag (R93). -/
def RgbTag.number : RgbTag → BitVec 5
  | .rgb888 => 0x00#5
  | .rgb565 => 0x01#5
  | .rgb555 => 0x02#5
  | .rgb444 => 0x03#5
  | .rgb888x => 0x04#5

/-- The number of a YUV-family tag (R93). -/
def YuvTag.number : YuvTag → BitVec 5
  | .nv24 => 0x10#5
  | .nv42 => 0x11#5
  | .yuy2 => 0x12#5
  | .yvyu => 0x13#5
  | .uyvy => 0x14#5
  | .vyuy => 0x15#5
  | .p422 => 0x16#5
  | .yv12 => 0x17#5
  | .yu12 => 0x18#5
  | .nv12 => 0x19#5
  | .nv21 => 0x1A#5
  | .y41p => 0x1B#5
  | .p411 => 0x1C#5
  | .yvu9 => 0x1D#5
  | .yuv9 => 0x1E#5

/-- The number of a tag (R93). -/
def Tag.number : Tag → BitVec 5
  | .rgb t => t.number
  | .yuv t => t.number

/-- The RGB-family tag of a number; none for 0x05 to 0x1F (R93). -/
def RgbTag.ofNumber (v : BitVec 5) : Option RgbTag :=
  if v = 0x00#5 then some .rgb888 else
  if v = 0x01#5 then some .rgb565 else
  if v = 0x02#5 then some .rgb555 else
  if v = 0x03#5 then some .rgb444 else
  if v = 0x04#5 then some .rgb888x else
  none

/-- The YUV-family tag of a number; none for 0x00 to 0x0F and for 0x1F (R93). -/
def YuvTag.ofNumber (v : BitVec 5) : Option YuvTag :=
  if v = 0x10#5 then some .nv24 else
  if v = 0x11#5 then some .nv42 else
  if v = 0x12#5 then some .yuy2 else
  if v = 0x13#5 then some .yvyu else
  if v = 0x14#5 then some .uyvy else
  if v = 0x15#5 then some .vyuy else
  if v = 0x16#5 then some .p422 else
  if v = 0x17#5 then some .yv12 else
  if v = 0x18#5 then some .yu12 else
  if v = 0x19#5 then some .nv12 else
  if v = 0x1A#5 then some .nv21 else
  if v = 0x1B#5 then some .y41p else
  if v = 0x1C#5 then some .p411 else
  if v = 0x1D#5 then some .yvu9 else
  if v = 0x1E#5 then some .yuv9 else
  none

/-- The tag of a number; none for the reserved numbers 0x05 to 0x0F and 0x1F (R93). -/
def Tag.ofNumber (v : BitVec 5) : Option Tag :=
  match RgbTag.ofNumber v with
  | some t => some (.rgb t)
  | none =>
    match YuvTag.ofNumber v with
    | some t => some (.yuv t)
    | none => none

/-- R92, steps 1 to 4 in their order, up to the tags' own legality. Membership of a CONVERT's pair in SUPPORTED_PAIRS
is a configuration matter and is the first check at issue (`Machine.issueCheck`). -/
def Fields.decode (f : Fields) : Except DecodeError Command :=
  if f.z3 ≠ 0 ∨ f.z2 ≠ 0 ∨ f.z1 ≠ 0 then .error .reservedBitSet
  else if 3 < f.op then .error .reservedOp
  else if f.op = 0 ∧ (f.fa ≠ 0 ∨ f.fb ≠ 0) then .error .unusedFieldSet
  else if (f.op = 1 ∨ f.op = 2) ∧ f.fb ≠ 0 then .error .unusedFieldSet
  else if f.op = 0 then .ok .nop
  else if f.op = 1 then
    match Tag.ofNumber f.fa with
    | some t => .ok (.reqbytes t)
    | none => .error .badFormatTag
  else if f.op = 2 then
    match RgbTag.ofNumber f.fa with
    | some t => .ok (.normalize t)
    | none => .error .badFormatTag
  else
    match RgbTag.ofNumber f.fa, YuvTag.ofNumber f.fb with
    | some src, some dst => .ok (.convert src dst)
    | _, _ => .error .badFormatTag

/-- The command an instruction stands for: the operation and the tags of its row. -/
def Instr.command : Instr → Command
  | .nop => .nop
  | .reqbytesRGB888 => .reqbytes (.rgb .rgb888)
  | .reqbytesRGB565 => .reqbytes (.rgb .rgb565)
  | .reqbytesRGB555 => .reqbytes (.rgb .rgb555)
  | .reqbytesRGB444 => .reqbytes (.rgb .rgb444)
  | .reqbytesRGB888X => .reqbytes (.rgb .rgb888x)
  | .reqbytesNV24 => .reqbytes (.yuv .nv24)
  | .reqbytesNV42 => .reqbytes (.yuv .nv42)
  | .reqbytesYUY2 => .reqbytes (.yuv .yuy2)
  | .reqbytesYVYU => .reqbytes (.yuv .yvyu)
  | .reqbytesUYVY => .reqbytes (.yuv .uyvy)
  | .reqbytesVYUY => .reqbytes (.yuv .vyuy)
  | .reqbytesP422 => .reqbytes (.yuv .p422)
  | .reqbytesYV12 => .reqbytes (.yuv .yv12)
  | .reqbytesYU12 => .reqbytes (.yuv .yu12)
  | .reqbytesNV12 => .reqbytes (.yuv .nv12)
  | .reqbytesNV21 => .reqbytes (.yuv .nv21)
  | .reqbytesY41P => .reqbytes (.yuv .y41p)
  | .reqbytesP411 => .reqbytes (.yuv .p411)
  | .reqbytesYVU9 => .reqbytes (.yuv .yvu9)
  | .reqbytesYUV9 => .reqbytes (.yuv .yuv9)
  | .normalizeRGB888 => .normalize .rgb888
  | .normalizeRGB565 => .normalize .rgb565
  | .normalizeRGB555 => .normalize .rgb555
  | .normalizeRGB444 => .normalize .rgb444
  | .normalizeRGB888X => .normalize .rgb888x
  | .convertRGB888NV24 => .convert .rgb888 .nv24
  | .convertRGB565NV24 => .convert .rgb565 .nv24
  | .convertRGB555NV24 => .convert .rgb555 .nv24
  | .convertRGB444NV24 => .convert .rgb444 .nv24
  | .convertRGB888XNV24 => .convert .rgb888x .nv24
  | .convertRGB888NV42 => .convert .rgb888 .nv42
  | .convertRGB565NV42 => .convert .rgb565 .nv42
  | .convertRGB555NV42 => .convert .rgb555 .nv42
  | .convertRGB444NV42 => .convert .rgb444 .nv42
  | .convertRGB888XNV42 => .convert .rgb888x .nv42
  | .convertRGB888YUY2 => .convert .rgb888 .yuy2
  | .convertRGB565YUY2 => .convert .rgb565 .yuy2
  | .convertRGB555YUY2 => .convert .rgb555 .yuy2
  | .convertRGB444YUY2 => .convert .rgb444 .yuy2
  | .convertRGB888XYUY2 => .convert .rgb888x .yuy2
  | .convertRGB888YVYU => .convert .rgb888 .yvyu
  | .convertRGB565YVYU => .convert .rgb565 .yvyu
  | .convertRGB555YVYU => .convert .rgb555 .yvyu
  | .convertRGB444YVYU => .convert .rgb444 .yvyu
  | .convertRGB888XYVYU => .convert .rgb888x .yvyu
  | .convertRGB888UYVY => .convert .rgb888 .uyvy
  | .convertRGB565UYVY => .convert .rgb565 .uyvy
  | .convertRGB555UYVY => .convert .rgb555 .uyvy
  | .convertRGB444UYVY => .convert .rgb444 .uyvy
  | .convertRGB888XUYVY => .convert .rgb888x .uyvy
  | .convertRGB888VYUY => .convert .rgb888 .vyuy
  | .convertRGB565VYUY => .convert .rgb565 .vyuy
  | .convertRGB555VYUY => .convert .rgb555 .vyuy
  | .convertRGB444VYUY => .convert .rgb444 .vyuy
  | .convertRGB888XVYUY => .convert .rgb888x .vyuy
  | .convertRGB888P422 => .convert .rgb888 .p422
  | .convertRGB565P422 => .convert .rgb565 .p422
  | .convertRGB555P422 => .convert .rgb555 .p422
  | .convertRGB444P422 => .convert .rgb444 .p422
  | .convertRGB888XP422 => .convert .rgb888x .p422
  | .convertRGB888YV12 => .convert .rgb888 .yv12
  | .convertRGB565YV12 => .convert .rgb565 .yv12
  | .convertRGB555YV12 => .convert .rgb555 .yv12
  | .convertRGB444YV12 => .convert .rgb444 .yv12
  | .convertRGB888XYV12 => .convert .rgb888x .yv12
  | .convertRGB888YU12 => .convert .rgb888 .yu12
  | .convertRGB565YU12 => .convert .rgb565 .yu12
  | .convertRGB555YU12 => .convert .rgb555 .yu12
  | .convertRGB444YU12 => .convert .rgb444 .yu12
  | .convertRGB888XYU12 => .convert .rgb888x .yu12
  | .convertRGB888NV12 => .convert .rgb888 .nv12
  | .convertRGB565NV12 => .convert .rgb565 .nv12
  | .convertRGB555NV12 => .convert .rgb555 .nv12
  | .convertRGB444NV12 => .convert .rgb444 .nv12
  | .convertRGB888XNV12 => .convert .rgb888x .nv12
  | .convertRGB888NV21 => .convert .rgb888 .nv21
  | .convertRGB565NV21 => .convert .rgb565 .nv21
  | .convertRGB555NV21 => .convert .rgb555 .nv21
  | .convertRGB444NV21 => .convert .rgb444 .nv21
  | .convertRGB888XNV21 => .convert .rgb888x .nv21
  | .convertRGB888Y41P => .convert .rgb888 .y41p
  | .convertRGB565Y41P => .convert .rgb565 .y41p
  | .convertRGB555Y41P => .convert .rgb555 .y41p
  | .convertRGB444Y41P => .convert .rgb444 .y41p
  | .convertRGB888XY41P => .convert .rgb888x .y41p
  | .convertRGB888P411 => .convert .rgb888 .p411
  | .convertRGB565P411 => .convert .rgb565 .p411
  | .convertRGB555P411 => .convert .rgb555 .p411
  | .convertRGB444P411 => .convert .rgb444 .p411
  | .convertRGB888XP411 => .convert .rgb888x .p411
  | .convertRGB888YVU9 => .convert .rgb888 .yvu9
  | .convertRGB565YVU9 => .convert .rgb565 .yvu9
  | .convertRGB555YVU9 => .convert .rgb555 .yvu9
  | .convertRGB444YVU9 => .convert .rgb444 .yvu9
  | .convertRGB888XYVU9 => .convert .rgb888x .yvu9
  | .convertRGB888YUV9 => .convert .rgb888 .yuv9
  | .convertRGB565YUV9 => .convert .rgb565 .yuv9
  | .convertRGB555YUV9 => .convert .rgb555 .yuv9
  | .convertRGB444YUV9 => .convert .rgb444 .yuv9
  | .convertRGB888XYUV9 => .convert .rgb888x .yuv9

/-- The row of spec/opcode_table.json that a command is. -/
def Command.instr : Command → Instr
  | .nop => .nop
  | .reqbytes (.rgb .rgb888) => .reqbytesRGB888
  | .reqbytes (.rgb .rgb565) => .reqbytesRGB565
  | .reqbytes (.rgb .rgb555) => .reqbytesRGB555
  | .reqbytes (.rgb .rgb444) => .reqbytesRGB444
  | .reqbytes (.rgb .rgb888x) => .reqbytesRGB888X
  | .reqbytes (.yuv .nv24) => .reqbytesNV24
  | .reqbytes (.yuv .nv42) => .reqbytesNV42
  | .reqbytes (.yuv .yuy2) => .reqbytesYUY2
  | .reqbytes (.yuv .yvyu) => .reqbytesYVYU
  | .reqbytes (.yuv .uyvy) => .reqbytesUYVY
  | .reqbytes (.yuv .vyuy) => .reqbytesVYUY
  | .reqbytes (.yuv .p422) => .reqbytesP422
  | .reqbytes (.yuv .yv12) => .reqbytesYV12
  | .reqbytes (.yuv .yu12) => .reqbytesYU12
  | .reqbytes (.yuv .nv12) => .reqbytesNV12
  | .reqbytes (.yuv .nv21) => .reqbytesNV21
  | .reqbytes (.yuv .y41p) => .reqbytesY41P
  | .reqbytes (.yuv .p411) => .reqbytesP411
  | .reqbytes (.yuv .yvu9) => .reqbytesYVU9
  | .reqbytes (.yuv .yuv9) => .reqbytesYUV9
  | .normalize .rgb888 => .normalizeRGB888
  | .normalize .rgb565 => .normalizeRGB565
  | .normalize .rgb555 => .normalizeRGB555
  | .normalize .rgb444 => .normalizeRGB444
  | .normalize .rgb888x => .normalizeRGB888X
  | .convert .rgb888 .nv24 => .convertRGB888NV24
  | .convert .rgb565 .nv24 => .convertRGB565NV24
  | .convert .rgb555 .nv24 => .convertRGB555NV24
  | .convert .rgb444 .nv24 => .convertRGB444NV24
  | .convert .rgb888x .nv24 => .convertRGB888XNV24
  | .convert .rgb888 .nv42 => .convertRGB888NV42
  | .convert .rgb565 .nv42 => .convertRGB565NV42
  | .convert .rgb555 .nv42 => .convertRGB555NV42
  | .convert .rgb444 .nv42 => .convertRGB444NV42
  | .convert .rgb888x .nv42 => .convertRGB888XNV42
  | .convert .rgb888 .yuy2 => .convertRGB888YUY2
  | .convert .rgb565 .yuy2 => .convertRGB565YUY2
  | .convert .rgb555 .yuy2 => .convertRGB555YUY2
  | .convert .rgb444 .yuy2 => .convertRGB444YUY2
  | .convert .rgb888x .yuy2 => .convertRGB888XYUY2
  | .convert .rgb888 .yvyu => .convertRGB888YVYU
  | .convert .rgb565 .yvyu => .convertRGB565YVYU
  | .convert .rgb555 .yvyu => .convertRGB555YVYU
  | .convert .rgb444 .yvyu => .convertRGB444YVYU
  | .convert .rgb888x .yvyu => .convertRGB888XYVYU
  | .convert .rgb888 .uyvy => .convertRGB888UYVY
  | .convert .rgb565 .uyvy => .convertRGB565UYVY
  | .convert .rgb555 .uyvy => .convertRGB555UYVY
  | .convert .rgb444 .uyvy => .convertRGB444UYVY
  | .convert .rgb888x .uyvy => .convertRGB888XUYVY
  | .convert .rgb888 .vyuy => .convertRGB888VYUY
  | .convert .rgb565 .vyuy => .convertRGB565VYUY
  | .convert .rgb555 .vyuy => .convertRGB555VYUY
  | .convert .rgb444 .vyuy => .convertRGB444VYUY
  | .convert .rgb888x .vyuy => .convertRGB888XVYUY
  | .convert .rgb888 .p422 => .convertRGB888P422
  | .convert .rgb565 .p422 => .convertRGB565P422
  | .convert .rgb555 .p422 => .convertRGB555P422
  | .convert .rgb444 .p422 => .convertRGB444P422
  | .convert .rgb888x .p422 => .convertRGB888XP422
  | .convert .rgb888 .yv12 => .convertRGB888YV12
  | .convert .rgb565 .yv12 => .convertRGB565YV12
  | .convert .rgb555 .yv12 => .convertRGB555YV12
  | .convert .rgb444 .yv12 => .convertRGB444YV12
  | .convert .rgb888x .yv12 => .convertRGB888XYV12
  | .convert .rgb888 .yu12 => .convertRGB888YU12
  | .convert .rgb565 .yu12 => .convertRGB565YU12
  | .convert .rgb555 .yu12 => .convertRGB555YU12
  | .convert .rgb444 .yu12 => .convertRGB444YU12
  | .convert .rgb888x .yu12 => .convertRGB888XYU12
  | .convert .rgb888 .nv12 => .convertRGB888NV12
  | .convert .rgb565 .nv12 => .convertRGB565NV12
  | .convert .rgb555 .nv12 => .convertRGB555NV12
  | .convert .rgb444 .nv12 => .convertRGB444NV12
  | .convert .rgb888x .nv12 => .convertRGB888XNV12
  | .convert .rgb888 .nv21 => .convertRGB888NV21
  | .convert .rgb565 .nv21 => .convertRGB565NV21
  | .convert .rgb555 .nv21 => .convertRGB555NV21
  | .convert .rgb444 .nv21 => .convertRGB444NV21
  | .convert .rgb888x .nv21 => .convertRGB888XNV21
  | .convert .rgb888 .y41p => .convertRGB888Y41P
  | .convert .rgb565 .y41p => .convertRGB565Y41P
  | .convert .rgb555 .y41p => .convertRGB555Y41P
  | .convert .rgb444 .y41p => .convertRGB444Y41P
  | .convert .rgb888x .y41p => .convertRGB888XY41P
  | .convert .rgb888 .p411 => .convertRGB888P411
  | .convert .rgb565 .p411 => .convertRGB565P411
  | .convert .rgb555 .p411 => .convertRGB555P411
  | .convert .rgb444 .p411 => .convertRGB444P411
  | .convert .rgb888x .p411 => .convertRGB888XP411
  | .convert .rgb888 .yvu9 => .convertRGB888YVU9
  | .convert .rgb565 .yvu9 => .convertRGB565YVU9
  | .convert .rgb555 .yvu9 => .convertRGB555YVU9
  | .convert .rgb444 .yvu9 => .convertRGB444YVU9
  | .convert .rgb888x .yvu9 => .convertRGB888XYVU9
  | .convert .rgb888 .yuv9 => .convertRGB888YUV9
  | .convert .rgb565 .yuv9 => .convertRGB565YUV9
  | .convert .rgb555 .yuv9 => .convertRGB555YUV9
  | .convert .rgb444 .yuv9 => .convertRGB444YUV9
  | .convert .rgb888x .yuv9 => .convertRGB888XYUV9

/-- The decoder: total, one of the 101 instructions or a refusal by name (R92, R97). -/
def decode (k : Word) : Except DecodeError Instr :=
  match (Fields.ofWord k).decode with
  | .ok c => .ok c.instr
  | .error e => .error e

/-- The instruction read from a word given as a number, bit 0 its least significant bit, of which `nbits` bits are
given and the rest are 0. A command is one 32-bit word (R90). -/
def decodeTableWord (nbits w : Nat) : Option Instr :=
  match decode (BitVec.ofNat 32 (w % 2 ^ nbits)) with
  | .ok i => some i
  | .error _ => none

/-- The operation number of a command (R91). -/
def Command.op : Command → BitVec 4
  | .nop => 0
  | .reqbytes _ => 1
  | .normalize _ => 2
  | .convert _ _ => 3

/-- Field FA of a command: its first format tag, 0 where it has none (R91). -/
def Command.fa : Command → BitVec 5
  | .nop => 0
  | .reqbytes t => t.number
  | .normalize src => src.number
  | .convert src _ => src.number

/-- Field FB of a command: the target tag of a CONVERT, else 0 (R91). -/
def Command.fb : Command → BitVec 5
  | .convert _ dst => dst.number
  | _ => 0

/-- The fields of a command's word; the reserved ones are 0 (R90). -/
def Command.fields (c : Command) : Fields :=
  { z3 := 0, op := c.op, z2 := 0, fb := c.fb, z1 := 0, fa := c.fa }

/-- The word of six fields (R90). -/
def Fields.toWord (f : Fields) : Word :=
  f.z3 ++ f.op ++ f.z2 ++ f.fb ++ f.z1 ++ f.fa

/-- The word of a command (R90: `OP << 16 | FB << 8 | FA`). -/
def Command.word (c : Command) : Word := c.fields.toWord

/-- The encoder: the word of an instruction (R90, R91, R93). -/
def encode (i : Instr) : Word := i.command.word

end Sys2Proof
end

