-- ==== Sys2Proof/Config.lean ====
section
/-! DEFINITION. The implementation parameters of spec/00_scope.md R4 and the free values of the model. The parameters
are plain data that a State carries and no step changes, so a statement about every state is a statement about every
configuration (log 2, log 7). -/

namespace Sys2Proof

/-- One row of the matrix table: five signed fixed-point coefficients (spec/42_matrix.md R170, R172). -/
structure MatrixRow where
  a : Int
  b : Int
  c : Int
  d : Int
  e : Int
deriving DecidableEq, Repr

/-- `MATRIX`: the rows Y, U and V (spec/42_matrix.md R172). -/
structure Matrix where
  y : MatrixRow
  u : MatrixRow
  v : MatrixRow
deriving DecidableEq, Repr

/-- `RGB555_LAYOUT`: the lowest bit of each 5-bit channel in the 16-bit pixel (spec/41_normalizer.md R153). -/
structure Rgb555Layout where
  r : Fin 12
  g : Fin 12
  b : Fin 12
deriving DecidableEq, Repr

/-- `RGB444_LAYOUT`: the nibble of the 3-byte group that holds each channel, nibble 2j the low half of byte j and nibble
2j+1 its high half (spec/41_normalizer.md R154). The even pixel uses only the group's first two bytes, since the last
group of an odd image has no third. -/
structure Rgb444Layout where
  evenB : Fin 4
  evenG : Fin 4
  evenR : Fin 4
  oddB : Fin 6
  oddG : Fin 6
  oddR : Fin 6
deriving DecidableEq, Repr

/-- The parameters of R4, one field per name. The registers of spec/10_state.md R21 have 32 bits and the rules size the
dimension registers, the pixel counter and RESULT for 16-bit dimensions (R23, R24, R28, R33), so 32 and 16, this
hardware's values, are also the largest that `AW` and `DIM_BITS` can take here (log 7). -/
structure Config where
  /-- `AW`, the address width in bits: the bits SRC_ADDR, CAN_ADDR and DST_ADDR keep -/
  aw : Fin 33
  /-- `DIM_BITS`, the bits WIDTH and HEIGHT keep -/
  dimBits : Fin 17
  /-- `MEM_SIZE`, the number of bytes the engine can reach (OPEN in R4) -/
  memSize : Nat
  /-- `MATRIX` -/
  matrix : Matrix
  /-- `SUPPORTED_PAIRS`, the pairs CONVERT accepts -/
  supportedPairs : List (RgbTag × YuvTag)
  /-- `RGB555_LAYOUT` -/
  rgb555 : Rgb555Layout
  /-- `RGB444_LAYOUT` -/
  rgb444 : Rgb444Layout
deriving DecidableEq, Repr

/-- R4: `0 < MEM_SIZE <= 2^32`, the 32 being `AW`: every byte of the memory has an address. -/
def Config.wf (c : Config) : Prop := 0 < c.memSize ∧ c.memSize ≤ 2 ^ c.aw.val

/-- Free value, "any value" of spec/20_memory.md R71: the byte of draw number `k` (log 8). No body: nothing is known of it. -/
opaque Config.freeByte : Nat → Byte

/-- Free choice of spec/70_reset_and_hazards.md R291, draw number `k`: whether a write-set byte of a command abandoned
by a reset keeps its old value (log 9). No body: nothing is known of it. -/
opaque Config.resetKeepsOld : Nat → Bool

end Sys2Proof
end

