-- ==== Sys2Proof/Machine/Defaults.lean ====
section
/-! DEFINITION. The default values of the parameters of spec/00_scope.md R4, as the spec gives them (log 7). -/

namespace Sys2Proof

/-- The default table of spec/42_matrix.md R172. -/
def Matrix.bt601 : Matrix :=
  { y := { a := 66, b := 129, c := 25, d := 128, e := 16 }
    u := { a := -38, b := -74, c := 112, d := 128, e := 128 }
    v := { a := 112, b := -94, c := -18, d := 128, e := 128 } }

/-- X1 R5 G5 B5, the default of spec/41_normalizer.md R153. -/
def Rgb555Layout.x1r5g5b5 : Rgb555Layout := { r := 10, g := 5, b := 0 }

/-- The nibble table of spec/41_normalizer.md R154. -/
def Rgb444Layout.standard : Rgb444Layout :=
  { evenB := 0, evenG := 1, evenR := 2, oddB := 3, oddG := 4, oddR := 5 }

/-- The five RGB-family tags. -/
def RgbTag.all : List RgbTag := [.rgb888, .rgb565, .rgb555, .rgb444, .rgb888x]

/-- The fifteen YUV-family tags. -/
def YuvTag.all : List YuvTag :=
  [.nv24, .nv42, .yuy2, .yvyu, .uyvy, .vyuy, .p422, .yv12, .yu12, .nv12, .nv21, .y41p, .p411, .yvu9, .yuv9]

/-- All 5 x 15 = 75 pairs, the default of R4. -/
def allPairs : List (RgbTag × YuvTag) :=
  RgbTag.all.flatMap fun src => YuvTag.all.map fun dst => (src, dst)

/-- This hardware with a memory of `memSize` bytes: every other parameter at R4's default. -/
def Config.thisHardware (memSize : Nat) : Config :=
  { aw := 32, dimBits := 16, memSize := memSize, matrix := .bt601, supportedPairs := allPairs,
    rgb555 := .x1r5g5b5, rgb444 := .standard }

end Sys2Proof
end

