-- ==== Sys2Proof/Machine/State.lean ====
section
/-! DEFINITION. The state of the engine (spec/10_state.md), the inputs the host and the platform give it, and why a step
can stop. Everything is plain data. -/

namespace Sys2Proof.Machine

/-- The error codes of spec/60_exceptions.md R261. Raising one is a next state (R262), never a stop. -/
inductive ErrorCode where
  | eOp | eFmt | eDim | eSize | eRange | eAlias
deriving DecidableEq, Repr

/-- STATUS (spec/10_state.md R26). The reserved bits 7:3 and 31:16 are hardwired 0 and stand in no field. -/
structure Status where
  /-- bit 0 -/
  busy : Bool
  /-- bit 1 -/
  done : Bool
  /-- bit 2 -/
  err : Bool
  /-- bits 15:8 -/
  errCode : BitVec 8
deriving DecidableEq, Repr

/-- The hidden copies taken at issue (spec/10_state.md R24): `K, W, H, S, C, D, L, P`. -/
structure Latched where
  k : Word
  w : BitVec 16
  h : BitVec 16
  s : Word
  c : Word
  d : Word
  l : Word
  /-- `P = W * H <= 65535 * 65535 < 2^32` -/
  p : BitVec 32
deriving DecidableEq, Repr

/-- The width of a host's register access. Only whole words have a meaning (spec/10_state.md R31). -/
inductive AccessSize where
  | byte | half | word
deriving DecidableEq, Repr

/-- An input: one thing the host or the platform does, or the engine's turn to move (log 1, log 6). -/
inductive Event where
  /-- the host writes a register; a command written to CMD runs to its end before the next input (R301 allows this) -/
  | regWrite (size : AccessSize) (offset : Nat) (value : Word)
  /-- the host writes a word to CMD and the next inputs come while the command is still running -/
  | cmdIssue (k : Word)
  /-- the host reads a register -/
  | regRead (size : AccessSize) (offset : Nat)
  /-- the host, or another agent, writes bytes at ascending addresses of `MEM` (R75, R99) -/
  | memWrite (addr : Nat) (bytes : List Byte)
  /-- the host reads `len` bytes of `MEM` -/
  | memRead (addr len : Nat)
  /-- the engine moves by one pixel if it is BUSY (R33) -/
  | engine
  /-- WAIT: the host reads STATUS until BUSY = 0 (R99, R301) -/
  | wait
  /-- the platform applies reset (R290, R291) -/
  | reset
deriving DecidableEq, Repr

/-- What a host's read returned. -/
inductive Reply where
  | word (v : Word)
  | bytes (bs : List Byte)
deriving DecidableEq, Repr

/-- The buffers of one accepted command, lent to the engine until the host has seen BUSY = 0
(spec/70_reset_and_hazards.md R298, R300): its source range and its write set, each a base and a length. -/
structure Lending where
  srcBase : Nat
  srcLen : Nat
  dstBase : Nat
  dstLen : Nat
deriving DecidableEq, Repr

/-- The machine. Everything down to `mem` is the spec's; the rest is the model's own (INVENTORY.md). -/
structure State where
  /-- the parameters of spec/00_scope.md R4; no step changes them -/
  cfg : Config
  status : Status
  /-- WIDTH; bits 31:16 are hardwired 0 (R23), and those from `DIM_BITS` up (R4) -/
  width : BitVec 16
  /-- HEIGHT; hardwired bits as in WIDTH -/
  height : BitVec 16
  /-- SRC_ADDR; it and the next two keep `AW` bits, all 32 on this hardware (R4, R23) -/
  srcAddr : Word
  canAddr : Word
  dstAddr : Word
  dstLen : Word
  /-- RESULT, read as RESULT_LO and RESULT_HI (R28) -/
  result : BitVec 34
  canPtr : Word
  latched : Latched
  /-- the pixel index `n` (R33) -/
  pixel : BitVec 32
  /-- ACCU: the entries that are not 0, indices rising (R36) -/
  accU : List (Nat × BitVec 12)
  /-- ACCV, held as ACCU -/
  accV : List (Nat × BitVec 12)
  /-- MEM: the bytes that are not 0, addresses rising (R39, log 3) -/
  mem : List Host.Cell
  /-- the model's own: MEM as it stood when the running command was issued (R291, log 9) -/
  before : List Host.Cell
  /-- the model's own: the host wrote into the running command's buffers (R71, log 8) -/
  disturbed : Bool
  /-- the model's own: buffers lent and not yet seen returned, newest first (R298, R300, log 8) -/
  lent : List Lending
  /-- the model's own: how many free values have been drawn (log 17) -/
  draws : Nat
  /-- the model's own: the inputs not yet taken (log 1) -/
  inbox : List Event
  /-- the model's own: what the host's reads returned, oldest first (log 20) -/
  replies : List Reply
deriving DecidableEq, Repr

/-- Why the machine stops at a host access the spec says does not exist. No command ends so (R269). -/
inductive Fault where
  /-- Raised by a host access to `MEM` that reaches outside `0 .. MEM_SIZE-1`: no such byte exists (spec/10_state.md
  R39, log 11). Safe: nothing is claimed of such an access. -/
  | hostAddressOutsideMem
deriving DecidableEq, Repr

/-- Why the machine refuses an input. -/
inductive Refusal where
  /-- Raised by `exec` for an instruction without a meaning; no arm of this model does. Safe. -/
  | notModelled (mnemonic : String)
  /-- Raised by a register access of fewer than 32 bits (spec/10_state.md R31: "a model refuses it"; log 10). Safe. -/
  | narrowRegisterAccess
  /-- Raised by a register access at an offset that is no multiple of 4 (spec/10_state.md R31, log 10). Safe. -/
  | misalignedRegisterAccess
deriving DecidableEq, Repr

/-- STATUS = 0x00000000 (spec/10_state.md R40). -/
def Status.reset : Status := { busy := false, done := false, err := false, errCode := 0 }

/-- The latched copies after reset: unspecified in R40 and never read before they are written; 0 here (log 4). -/
def Latched.reset : Latched := { k := 0, w := 0, h := 0, s := 0, c := 0, d := 0, l := 0, p := 0 }

/-- The machine right after power-up and reset (spec/10_state.md R40). `MEM_SIZE` is open in the spec and 0x10000 here
(log 2); `MEM` lists nothing (log 3). -/
def State.reset : State :=
  { cfg := Config.thisHardware 0x10000
    status := Status.reset
    width := 0
    height := 0
    srcAddr := 0
    canAddr := 0
    dstAddr := 0
    dstLen := 0
    result := 0
    canPtr := 0
    latched := Latched.reset
    pixel := 0
    accU := []
    accV := []
    mem := []
    before := []
    disturbed := false
    lent := []
    draws := 0
    inbox := []
    replies := [] }

end Sys2Proof.Machine
end

