-- ==== Sys2Proof/Machine/Flags.lean ====
section
/-! DEFINITION. The flags: the word a host reads from STATUS and the four ways STATUS changes (spec/10_state.md R26,
R27; spec/60_exceptions.md R261, R262). There are no arithmetic flags (R34). -/

namespace Sys2Proof.Machine

/-- The code of an error (R261). -/
def ErrorCode.number : ErrorCode → BitVec 8
  | .eOp => 1
  | .eFmt => 2
  | .eDim => 3
  | .eSize => 4
  | .eRange => 5
  | .eAlias => 6

/-- The error a word that does not decode raises (R92, R97). -/
def decodeErrorCode : DecodeError → ErrorCode
  | .reservedBitSet => .eOp
  | .reservedOp => .eOp
  | .unusedFieldSet => .eOp
  | .badFormatTag => .eFmt

/-- STATUS as the host reads it: bits 31:16 and 7:3 are 0 (R26). -/
def Status.word (t : Status) : Word :=
  0#16 ++ t.errCode ++ 0#5 ++ BitVec.ofBool t.err ++ BitVec.ofBool t.done ++ BitVec.ofBool t.busy

/-- Issue clears DONE, ERR and ERRCODE (R25). -/
def Status.issued (t : Status) : Status := { t with done := false, err := false, errCode := 0 }

/-- An accepted NORMALIZE or CONVERT sets BUSY (R26). -/
def Status.accepted (t : Status) : Status := { t with busy := true }

/-- Completion: BUSY cleared, DONE set (R26). -/
def Status.completed (t : Status) : Status := { t with busy := false, done := true }

/-- Refusal: ERR and ERRCODE set together (R26, R262). -/
def Status.refused (t : Status) (e : ErrorCode) : Status := { t with err := true, errCode := e.number }

end Sys2Proof.Machine
end

