-- ==== Sys2Proof/Machine/Operands.lean ====
section
/-! DEFINITION. The operands of a command and the checks made on them at issue: sizes and divisors
(spec/40_required_bytes.md R120 to R140), buffer ranges (spec/20_memory.md R66, R67) and the check sequence
(spec/60_exceptions.md R263 to R268). Sizes and addresses are unbounded natural numbers (R120, R60). -/

namespace Sys2Proof.Machine

/-- `required_bytes` of an RGB-family tag (R121 to R125). -/
def rgbBytes : RgbTag → Nat → Nat
  | .rgb888, p => 3 * p
  | .rgb565, p => 2 * p
  | .rgb555, p => 2 * p
  | .rgb444, p => (3 * p + 1) / 2
  | .rgb888x, p => 4 * p

/-- `required_bytes` of a YUV-family tag (R126 to R140). -/
def yuvBytes : YuvTag → Nat → Nat
  | .nv24, p => 3 * p
  | .nv42, p => 3 * p
  | .yuy2, p => 2 * p
  | .yvyu, p => 2 * p
  | .uyvy, p => 2 * p
  | .vyuy, p => 2 * p
  | .p422, p => 2 * p
  | .yv12, p => p + p / 2
  | .yu12, p => p + p / 2
  | .nv12, p => p + p / 2
  | .nv21, p => p + p / 2
  | .y41p, p => p + p / 2
  | .p411, p => p + p / 2
  | .yvu9, p => p + p / 8
  | .yuv9, p => p + p / 8

/-- `required_bytes(fmt, P)` (R120). -/
def requiredBytes : Tag → Nat → Nat
  | .rgb t, p => rgbBytes t p
  | .yuv t, p => yuvBytes t p

/-- The pixel-count divisor `k` of a YUV-family tag (R126 to R140). -/
def yuvDivisor : YuvTag → Nat
  | .nv24 => 1
  | .nv42 => 1
  | .yuy2 => 2
  | .yvyu => 2
  | .uyvy => 2
  | .vyuy => 2
  | .p422 => 2
  | .yv12 => 4
  | .yu12 => 4
  | .nv12 => 4
  | .nv21 => 4
  | .y41p => 8
  | .p411 => 4
  | .yvu9 => 16
  | .yuv9 => 16

/-- The pixel-count divisor `k` of a tag; an RGB-family tag has no precondition (R120). -/
def divisor : Tag → Nat
  | .rgb _ => 1
  | .yuv t => yuvDivisor t

/-- The subsampling class of a target tag (spec/30_encoding.md R93). -/
def subsampling : YuvTag → Subsampling
  | .nv24 => .s444
  | .nv42 => .s444
  | .yuy2 => .s422
  | .yvyu => .s422
  | .uyvy => .s422
  | .vyuy => .s422
  | .p422 => .s422
  | .yv12 => .s420
  | .yu12 => .s420
  | .nv12 => .s420
  | .nv21 => .s420
  | .y41p => .s411
  | .p411 => .s411
  | .yvu9 => .s410
  | .yuv9 => .s410

/-- The condition on width and height that CONVERT adds for the block-based targets (R211, R223, R265). -/
def blocksFit (dst : YuvTag) (w h : Nat) : Bool :=
  match subsampling dst with
  | .s420 => w % 2 == 0 && h % 2 == 0
  | .s410 => w % 4 == 0 && h % 4 == 0
  | _ => true

/-- `[x, x + len)` is inside `MEM`; no wrap-around (R267). -/
def inside (memSize x len : Nat) : Bool :=
  len == 0 || decide (x + len ≤ memSize)

/-- `[x, x + a)` and `[y, y + b)` share a byte (R268). -/
def overlap (x a y b : Nat) : Bool :=
  decide (0 < a) && decide (0 < b) && decide (x < y + b) && decide (y < x + a)

/-- The source range of a command: base and length (R66). -/
def sourceRange (c : Command) (l : Latched) : Nat × Nat :=
  match c with
  | .normalize src => (l.s.toNat, rgbBytes src l.p.toNat)
  | .convert src _ => (l.s.toNat, rgbBytes src l.p.toNat)
  | _ => (0, 0)

/-- The write set of a command: base and length (R67). NORMALIZE of RGB888 writes no memory. -/
def writeRange (c : Command) (l : Latched) : Nat × Nat :=
  match c with
  | .normalize .rgb888 => (l.c.toNat, 0)
  | .normalize _ => (l.c.toNat, 3 * l.p.toNat)
  | .convert _ dst => (l.d.toNat, yuvBytes dst l.p.toNat)
  | _ => (0, 0)

/-- Steps 7 and 8 of R263: both ranges inside `MEM`, then disjoint. -/
def rangeCheck (memSize : Nat) (src dst : Nat × Nat) : Option ErrorCode :=
  if !inside memSize src.1 src.2 || !inside memSize dst.1 dst.2 then some .eRange
  else if overlap src.1 src.2 dst.1 dst.2 then some .eAlias
  else none

/-- The checks made at issue on a word that decodes, in the order of R263 from the last clause of step 4 on: the first
that fails, or none. An empty write set (NORMALIZE of RGB888) is inside `MEM` and overlaps nothing, as R156 and R157
ask. -/
def issueCheck (c : Command) (cfg : Config) (l : Latched) : Option ErrorCode :=
  match c with
  | .nop => none
  | .reqbytes t => if l.p.toNat % divisor t != 0 then some .eDim else none
  | .normalize src =>
    rangeCheck cfg.memSize (sourceRange (.normalize src) l) (writeRange (.normalize src) l)
  | .convert src dst =>
    if !(cfg.supportedPairs.contains (src, dst)) then some .eFmt
    else if l.p.toNat % yuvDivisor dst != 0 || !blocksFit dst l.w.toNat l.h.toNat then some .eDim
    else if l.l.toNat != yuvBytes dst l.p.toNat then some .eSize
    else rangeCheck cfg.memSize (sourceRange (.convert src dst) l) (writeRange (.convert src dst) l)

/-- The buffers a command borrows (R298, R300). -/
def lendingOf (c : Command) (l : Latched) : Lending :=
  { srcBase := (sourceRange c l).1, srcLen := (sourceRange c l).2,
    dstBase := (writeRange c l).1, dstLen := (writeRange c l).2 }

end Sys2Proof.Machine
end

