-- ==== Sys2Proof/Machine/Ops.lean ====
section
/-! DEFINITION. The named operations over memory, the accumulator file and the registers; issuing a command; refusing one
(this hardware's exception entry) and completing one. -/

namespace Sys2Proof.Machine

/-! ### Sparse arrays in canonical form: indices strictly rising, no entry equal to 0 -/

/-- The value at an index; an unlisted index reads 0 (log 3, log 5). -/
def sparseRead {w : Nat} : List (Nat × BitVec w) → Nat → BitVec w
  | [], _ => 0
  | (k, v) :: rest, a => if k = a then v else sparseRead rest a

/-- The array with index `a` taken out. -/
def sparseErase {w : Nat} : List (Nat × BitVec w) → Nat → List (Nat × BitVec w)
  | [], _ => []
  | (k, v) :: rest, a => if k = a then sparseErase rest a else (k, v) :: sparseErase rest a

/-- A pair put in at its place. -/
def sparseInsert {w : Nat} : List (Nat × BitVec w) → Nat → BitVec w → List (Nat × BitVec w)
  | [], a, v => [(a, v)]
  | (k, x) :: rest, a, v => if a < k then (a, v) :: (k, x) :: rest else (k, x) :: sparseInsert rest a v

/-- Write: the value an unlisted index reads as is not listed. -/
def sparseWrite {w : Nat} (m : List (Nat × BitVec w)) (a : Nat) (v : BitVec w) : List (Nat × BitVec w) :=
  if v = 0 then sparseErase m a else sparseInsert (sparseErase m a) a v

/-- The canonical form: every index is above the ones before it and no listed value is 0. -/
def sparseWf {w : Nat} : List (Nat × BitVec w) → Bool
  | [] => true
  | (k, v) :: rest => v != 0 && rest.all (fun e => decide (k < e.1)) && sparseWf rest

/-! ### Memory -/

/-- `MEM[a]` (spec/20_memory.md R62, R63). -/
def memRead (m : List Host.Cell) (a : Nat) : Byte := sparseRead m a

/-- `MEM[a] <- v` (spec/20_memory.md R62). -/
def memWrite (m : List Host.Cell) (a : Nat) (v : Byte) : List Host.Cell := sparseWrite m a v

/-- The canonical form of a memory. -/
def memWf (m : List Host.Cell) : Bool := sparseWf m

/-- `MemRead(a, 2)`: two byte reads, the byte at the lower address in bits 7:0 (spec/20_memory.md R61, R62). -/
def memRead16 (m : List Host.Cell) (a : Nat) : Half := memRead m (a + 1) ++ memRead m a

/-- The bytes of `[a, a + len)`, ascending. -/
def memReadBytes (m : List Host.Cell) (a : Nat) : Nat → List Byte
  | 0 => []
  | len + 1 => memRead m a :: memReadBytes m (a + 1) len

/-- Bytes written at ascending addresses from `a`. -/
def memWriteBytes (m : List Host.Cell) (a : Nat) : List Byte → List Host.Cell
  | [] => m
  | b :: bs => memWriteBytes (memWrite m a b) (a + 1) bs

/-- Byte `base + i` set to `f i` for every `i < len`. -/
def memFill (m : List Host.Cell) (base : Nat) (f : Nat → Byte) : Nat → List Host.Cell
  | 0 => m
  | len + 1 => memWrite (memFill m base f len) (base + len) (f len)

/-! ### The host's registers -/

/-- A register as the host reads it, by its offset (spec/10_state.md R21 to R29): CMD and the reserved offsets read 0. -/
def State.readReg (s : State) (offset : Nat) : Word :=
  match offset with
  | 0x04 => s.status.word
  | 0x08 => s.width.setWidth 32
  | 0x0C => s.height.setWidth 32
  | 0x10 => s.srcAddr
  | 0x14 => s.canAddr
  | 0x18 => s.dstAddr
  | 0x1C => s.dstLen
  | 0x20 => s.result.extractLsb' 0 32
  | 0x24 => (s.result.extractLsb' 32 2).setWidth 32
  | 0x28 => s.canPtr
  | _ => 0

/-- The low `k` bits of a written word; a register hardwires the others to 0 (R23). -/
def keepBits (k : Nat) (v : Word) : Word := BitVec.ofNat 32 (v.toNat % 2 ^ k)

/-- A host write to a register other than CMD: the six operand registers keep it, dimensions in `DIM_BITS` and addresses
in `AW` bits; read-only and reserved offsets ignore it (R4, R21, R22, R23); while BUSY every register ignores it
(spec/70_reset_and_hazards.md R299). -/
def State.writeReg (s : State) (offset : Nat) (v : Word) : State :=
  if s.status.busy then s
  else
    match offset with
    | 0x08 => { s with width := (keepBits s.cfg.dimBits.val v).setWidth 16 }
    | 0x0C => { s with height := (keepBits s.cfg.dimBits.val v).setWidth 16 }
    | 0x10 => { s with srcAddr := keepBits s.cfg.aw.val v }
    | 0x14 => { s with canAddr := keepBits s.cfg.aw.val v }
    | 0x18 => { s with dstAddr := keepBits s.cfg.aw.val v }
    | 0x1C => { s with dstLen := v }
    | _ => s

/-! ### Issue, refusal, completion -/

/-- What issue latches (R24): the word, the operand registers and `P <- W * H`. -/
def State.latchOf (s : State) (k : Word) : Latched :=
  { k := k, w := s.width, h := s.height, s := s.srcAddr, c := s.canAddr, d := s.dstAddr, l := s.dstLen,
    p := BitVec.ofNat 32 (s.width.toNat * s.height.toNat) }

/-- Issue of a word while IDLE (R24, R25): the operands are latched and DONE, ERR and ERRCODE cleared. Clearing ERR is
also the only "return" from a refusal (spec/60_exceptions.md R262). -/
def State.issue (s : State) (k : Word) : State :=
  { s with latched := s.latchOf k, status := s.status.issued }

/-- `raise e`, the exception entry of this hardware, after issue (spec/60_exceptions.md R262): ERR and ERRCODE are set
and nothing else changes. No pc, status or mode is saved: none exists. -/
def State.raise (s : State) (e : ErrorCode) : State :=
  { s with status := s.status.refused e }

/-- Refusal of a word at its issue: the whole entry sequence of R262. -/
def State.refuse (s : State) (k : Word) (e : ErrorCode) : State :=
  (s.issue k).raise e

/-- A command completes (R26): BUSY cleared, DONE set. -/
def State.complete (s : State) : State :=
  { s with status := s.status.completed }

/-- An accepted NORMALIZE or CONVERT starts (R26, R32, R33): BUSY set, `n` at 0. The model's own fields note the
memory at issue (R291) and the buffers lent (R298, R300). -/
def State.start (s : State) (c : Command) : State :=
  { s with status := s.status.accepted, pixel := 0, before := s.mem, disturbed := false,
           lent := lendingOf c s.latched :: s.lent }

/-- "Any value" in every byte of `[base, base + len)`: one free draw per byte (spec/20_memory.md R71, log 8). -/
def State.scramble (s : State) (base len : Nat) : State :=
  { s with mem := memFill s.mem base (fun i => Config.freeByte (s.draws + i)) len, draws := s.draws + len }

end Sys2Proof.Machine
end

