-- ==== Sys2Proof/Machine/Normalizer.lean ====
section
/-! DEFINITION. The RGB normalizer: `Norm(fmt, n)` for the five source formats (spec/41_normalizer.md R150 to R155). -/

namespace Sys2Proof.Machine

/-- A canonical pixel, in the byte order of memory: B, G, R (R150). -/
structure Pixel where
  b : Byte
  g : Byte
  r : Byte
deriving DecidableEq, Repr

/-- Three consecutive bytes as they stand: B, G, R (R151, R155). -/
def pixelAt (m : List Host.Cell) (a : Nat) : Pixel :=
  { b := memRead m a, g := memRead m (a + 1), r := memRead m (a + 2) }

/-- The pixel of an RGB565 word: zero-filled low bits, no replication (R152). -/
def unpack565 (p : Half) : Pixel :=
  { b := (p.extractLsb' 0 5).setWidth 8 <<< 3
    g := (p.extractLsb' 5 6).setWidth 8 <<< 2
    r := (p.extractLsb' 11 5).setWidth 8 <<< 3 }

/-- The pixel of an RGB555 word under a layout; bits outside the three fields are ignored (R153). -/
def unpack555 (y : Rgb555Layout) (p : Half) : Pixel :=
  { b := (p.extractLsb' y.b.val 5).setWidth 8 <<< 3
    g := (p.extractLsb' y.g.val 5).setWidth 8 <<< 3
    r := (p.extractLsb' y.r.val 5).setWidth 8 <<< 3 }

/-- Nibble `j` of the bytes from `a`, in the high half of a byte: nibble 2i is the low half of byte i, nibble 2i+1 its
high half (R154). -/
def nibbleHigh (m : List Host.Cell) (a j : Nat) : Byte :=
  ((memRead m (a + j / 2)).extractLsb' (4 * (j % 2)) 4).setWidth 8 <<< 4

/-- Pixel `n` of an RGB444 source at `s`: group `n >> 1` is three bytes, the even pixel uses its first two (R154). -/
def unpack444 (y : Rgb444Layout) (m : List Host.Cell) (s n : Nat) : Pixel :=
  if n % 2 = 0 then
    { b := nibbleHigh m (s + 3 * (n / 2)) y.evenB.val
      g := nibbleHigh m (s + 3 * (n / 2)) y.evenG.val
      r := nibbleHigh m (s + 3 * (n / 2)) y.evenR.val }
  else
    { b := nibbleHigh m (s + 3 * (n / 2)) y.oddB.val
      g := nibbleHigh m (s + 3 * (n / 2)) y.oddG.val
      r := nibbleHigh m (s + 3 * (n / 2)) y.oddR.val }

/-- `Norm(fmt, n)` of the source at base `s` (R151 to R155). -/
def norm (cfg : Config) (m : List Host.Cell) (src : RgbTag) (s n : Nat) : Pixel :=
  match src with
  | .rgb888 => pixelAt m (s + 3 * n)
  | .rgb565 => unpack565 (memRead16 m (s + 2 * n))
  | .rgb555 => unpack555 cfg.rgb555 (memRead16 m (s + 2 * n))
  | .rgb444 => unpack444 cfg.rgb444 m s n
  | .rgb888x => pixelAt m (s + 4 * n)

/-- The canonical pixel stored at `a` (R150, R156). -/
def storePixel (m : List Host.Cell) (a : Nat) (x : Pixel) : List Host.Cell :=
  memWrite (memWrite (memWrite m a x.b) (a + 1) x.g) (a + 2) x.r

end Sys2Proof.Machine
end

