-- ==== Sys2Proof/Machine/ColourMatrix.lean ====
section
/-! DEFINITION. The colour-matrix transform and clamp (spec/42_matrix.md R170 to R177): exact signed integers, narrowed
once by the clamp. -/

namespace Sys2Proof.Machine

/-- `clamp(x)` (R171). -/
def clamp (x : Int) : Int :=
  if x < 0 then 0 else if 255 < x then 255 else x

/-- `convert` of one row: multiply-add, add `d`, arithmetic shift by 8, add `e`, clamp (R170, R177). -/
def convertRow (w : MatrixRow) (c1 c2 c3 : Byte) : Int :=
  clamp (((w.a * (c1.toNat : Int) + w.b * (c2.toNat : Int) + w.c * (c3.toNat : Int) + w.d) >>> (8 : Nat)) + w.e)

/-- One channel of a pixel as a byte. The arguments are R, G, B in that order (R176). -/
def channel (w : MatrixRow) (x : Pixel) : Byte :=
  BitVec.ofNat 8 (convertRow w x.r x.g x.b).toNat

/-- The Y, U and V of one pixel (R176). -/
structure Yuv where
  y : Byte
  u : Byte
  v : Byte
deriving DecidableEq, Repr

/-- The three calls of `convert` made per pixel (R176, R179). -/
def pixelYuv (t : Matrix) (x : Pixel) : Yuv :=
  { y := channel t.y x, u := channel t.u x, v := channel t.v x }

end Sys2Proof.Machine
end

