-- ==== Sys2Proof/Machine/Writers.lean ====
section
/-! DEFINITION. The subsampling writers: where each sample of each target layout stands
(spec/43_writers_444_422.md R191 to R198, spec/44_writers_420_411_410.md R211 to R225 and its section 4), and what one
pixel does to the chroma accumulator (spec/45_dispatcher.md R246, spec/10_state.md R36). -/

namespace Sys2Proof.Machine

/-- Offset from `D` of the luma byte of pixel `n` (R190; R194 to R197; R218). -/
def lumaOffset (dst : YuvTag) (n : Nat) : Nat :=
  match dst with
  | .yuy2 => 2 * n
  | .yvyu => 2 * n
  | .uyvy => 2 * n + 1
  | .vyuy => 2 * n + 1
  | .y41p => if n % 8 < 4 then 12 * (n / 8) + 1 + 2 * (n % 8) else 12 * (n / 8) + 4 + n % 8
  | _ => n

/-- Offset from `D` of the U byte of group `g`: pixel, pair, four or block index, by the class (R191 to R225). -/
def chromaUOffset (dst : YuvTag) (p g : Nat) : Nat :=
  match dst with
  | .nv24 => p + 2 * g
  | .nv42 => p + 2 * g + 1
  | .yuy2 => 4 * g + 1
  | .yvyu => 4 * g + 3
  | .uyvy => 4 * g
  | .vyuy => 4 * g + 2
  | .p422 => p + g
  | .yv12 => p + p / 4 + g
  | .yu12 => p + g
  | .nv12 => p + 2 * g
  | .nv21 => p + 2 * g + 1
  | .y41p => 12 * (g / 2) + 4 * (g % 2)
  | .p411 => p + g
  | .yvu9 => p + p / 16 + g
  | .yuv9 => p + g

/-- Offset from `D` of the V byte of group `g` (R191 to R225). -/
def chromaVOffset (dst : YuvTag) (p g : Nat) : Nat :=
  match dst with
  | .nv24 => p + 2 * g + 1
  | .nv42 => p + 2 * g
  | .yuy2 => 4 * g + 3
  | .yvyu => 4 * g + 1
  | .uyvy => 4 * g + 2
  | .vyuy => 4 * g
  | .p422 => p + p / 2 + g
  | .yv12 => p + g
  | .yu12 => p + p / 4 + g
  | .nv12 => p + 2 * g + 1
  | .nv21 => p + 2 * g
  | .y41p => 12 * (g / 2) + 2 + 4 * (g % 2)
  | .p411 => p + p / 4 + g
  | .yvu9 => p + g
  | .yuv9 => p + p / 16 + g

/-- The part a pixel plays in its chroma group (R246): the accumulator entry, whether it is the group's first or last
pixel, the group's index, and the shift of the average. -/
structure GroupStep where
  entry : Nat
  first : Bool
  last : Bool
  group : Nat
  shift : Nat
deriving DecidableEq, Repr

/-- The part pixel `n` plays in an image of width `w` (R193, R211, R217, R223, R246). The row and column phases are
functions of `n` (spec/10_state.md R35). For 4:4:4 a pixel is its own group; no accumulator is used. -/
def groupStep (c : Subsampling) (w n : Nat) : GroupStep :=
  match c with
  | .s444 => { entry := 0, first := true, last := true, group := n, shift := 0 }
  | .s422 => { entry := 0, first := n % 2 == 0, last := n % 2 == 1, group := n / 2, shift := 1 }
  | .s411 => { entry := 0, first := n % 4 == 0, last := n % 4 == 3, group := n / 4, shift := 2 }
  | .s420 =>
    { entry := n % w / 2
      first := n / w % 2 == 0 && n % w % 2 == 0
      last := n / w % 2 == 1 && n % w % 2 == 1
      group := n / w / 2 * (w / 2) + n % w / 2
      shift := 2 }
  | .s410 =>
    { entry := n % w / 4
      first := n / w % 4 == 0 && n % w % 4 == 0
      last := n / w % 4 == 3 && n % w % 4 == 3
      group := n / w / 4 * (w / 4) + n % w / 4
      shift := 4 }

/-- Seed or add: what an accumulator entry becomes at one pixel (R36, R246). -/
def accumulated (g : GroupStep) (acc : List (Nat × BitVec 12)) (x : Byte) : BitVec 12 :=
  if g.first then x.setWidth 12 else sparseRead acc g.entry + x.setWidth 12

/-- What the writer changes: the memory and the two accumulator arrays. -/
structure WriterState where
  mem : List Host.Cell
  accU : List (Nat × BitVec 12)
  accV : List (Nat × BitVec 12)
deriving DecidableEq, Repr

/-- The byte a finished group emits: the sum shifted right, low 8 bits (R179, R246; R177 (c) says no bit is lost). -/
def averageByte (sum : BitVec 12) (shift : Nat) : Byte := (sum >>> shift).setWidth 8

/-- The chroma of one pixel of a subsampled target: seed or add, and after the group's last pixel store both averages
(R246). -/
def writeChroma (dst : YuvTag) (p d : Nat) (g : GroupStep) (x : Yuv) (t : WriterState) : WriterState :=
  let su := accumulated g t.accU x.u
  let sv := accumulated g t.accV x.v
  let accU := sparseWrite t.accU g.entry su
  let accV := sparseWrite t.accV g.entry sv
  if g.last then
    { mem := memWrite (memWrite t.mem (d + chromaUOffset dst p g.group) (averageByte su g.shift))
        (d + chromaVOffset dst p g.group) (averageByte sv g.shift)
      accU := accU, accV := accV }
  else { mem := t.mem, accU := accU, accV := accV }

/-- The chroma of one pixel of a 4:4:4 target: both samples stored, no accumulator (R191, R192). -/
def writeFullChroma (dst : YuvTag) (p d n : Nat) (x : Yuv) (t : WriterState) : WriterState :=
  { t with mem := memWrite (memWrite t.mem (d + chromaUOffset dst p n) x.u) (d + chromaVOffset dst p n) x.v }

/-- The writer's work at pixel `n`: the luma byte, then the chroma (R246). -/
def writePixel (dst : YuvTag) (w p d n : Nat) (x : Yuv) (t : WriterState) : WriterState :=
  let t1 := { t with mem := memWrite t.mem (d + lumaOffset dst n) x.y }
  match subsampling dst with
  | .s444 => writeFullChroma dst p d n x t1
  | c => writeChroma dst p d (groupStep c w n) x t1

end Sys2Proof.Machine
end

