-- ==== Sys2Proof/Machine/Sequencer.lean ====
section
/-! DEFINITION. The sequencer: issue with its checks, one pixel, completion, and a whole command
(spec/10_state.md R24 to R33, spec/45_dispatcher.md R240 to R251, spec/41_normalizer.md R156). -/

namespace Sys2Proof.Machine

/-- The work of NORMALIZE at the present pixel: three bytes at `C + 3n`; none for RGB888 (R156). -/
def State.normalizePixel (s : State) (src : RgbTag) : State :=
  match src with
  | .rgb888 => s
  | _ =>
    { s with mem := storePixel s.mem (s.latched.c.toNat + 3 * s.pixel.toNat)
                      (norm s.cfg s.mem src s.latched.s.toNat s.pixel.toNat) }

/-- The Y, U and V of the present pixel of a CONVERT (R176, R241). -/
def State.presentYuv (s : State) (src : RgbTag) : Yuv :=
  pixelYuv s.cfg.matrix (norm s.cfg s.mem src s.latched.s.toNat s.pixel.toNat)

/-- The work of CONVERT at the present pixel: normalizer, matrix, writer (R241, R246). -/
def State.convertPixel (s : State) (src : RgbTag) (dst : YuvTag) : State :=
  let t := writePixel dst s.latched.w.toNat s.latched.p.toNat s.latched.d.toNat s.pixel.toNat (s.presentYuv src)
    { mem := s.mem, accU := s.accU, accV := s.accV }
  { s with mem := t.mem, accU := t.accU, accV := t.accV }

/-- One pixel of a running command, then `n <- n + 1` (R33). -/
def State.pixelStep (c : Command) (s : State) : State :=
  let t := match c with
    | .normalize src => s.normalizePixel src
    | .convert src dst => s.convertPixel src dst
    | _ => s
  { t with pixel := t.pixel + 1 }

/-- `k` pixels. -/
def State.pixelSteps (c : Command) : Nat → State → State
  | 0, s => s
  | k + 1, s => State.pixelSteps c k (s.pixelStep c)

/-- CAN_PTR at the completion of a command (R29, R156): only NORMALIZE writes it. -/
def State.canPtrAfter (s : State) (c : Command) : Word :=
  match c with
  | .normalize .rgb888 => s.latched.s
  | .normalize _ => s.latched.c
  | _ => s.canPtr

/-- Completion of a NORMALIZE or CONVERT: CAN_PTR, BUSY and DONE (R26, R156, R240). If the host wrote into the command's
buffers meanwhile, every byte of its write set is any value (spec/20_memory.md R71, log 8). -/
def State.finish (s : State) (c : Command) : State :=
  let t := if s.disturbed then s.scramble (writeRange c s.latched).1 (writeRange c s.latched).2 else s
  { t.complete with canPtr := s.canPtrAfter c, before := [], disturbed := false }

/-- The engine's move while BUSY: one pixel if one is left, and completion when `n = P` (R33). -/
def State.advance (s : State) (c : Command) : State :=
  let t := if s.pixel.toNat < s.latched.p.toNat then s.pixelStep c else s
  if t.latched.p.toNat ≤ t.pixel.toNat then t.finish c else t

/-- The issue of a command while IDLE: latch, check in the order of R263, then refuse, complete at once (NOP, REQBYTES)
or start (NORMALIZE, CONVERT) (R25, R141, R156, R240, R251). -/
def State.begin (s : State) (c : Command) : State :=
  let t := s.issue c.word
  match issueCheck c t.cfg t.latched with
  | some e => t.raise e
  | none =>
    match c with
    | .nop => t.complete
    | .reqbytes g => { t.complete with result := BitVec.ofNat 34 (requiredBytes g t.latched.p.toNat) }
    | .normalize src => t.start (.normalize src)
    | .convert src dst => t.start (.convert src dst)

/-- The rest of a running command: every pixel left, then completion (R247, R248). -/
def State.runToEnd (s : State) (c : Command) : State :=
  (State.pixelSteps c (s.latched.p.toNat - s.pixel.toNat) s).finish c

/-- A whole command, issue to completion. A CMD write while BUSY is ignored (R25, R299). -/
def State.perform (s : State) (c : Command) : State :=
  if s.status.busy then s
  else
    let t := s.begin c
    if t.status.busy then t.runToEnd c else t

/-- NOP (R251). -/
def nopCommand (s : State) : Host.Outcome State Fault Refusal := .next (s.perform .nop)

/-- `REQBYTES t` (R141). -/
def reqbytesCommand (t : Tag) (s : State) : Host.Outcome State Fault Refusal := .next (s.perform (.reqbytes t))

/-- `NORMALIZE src` (R156). -/
def normalizeCommand (src : RgbTag) (s : State) : Host.Outcome State Fault Refusal :=
  .next (s.perform (.normalize src))

/-- `CONVERT src, dst` (R240). -/
def convertCommand (src : RgbTag) (dst : YuvTag) (s : State) : Host.Outcome State Fault Refusal :=
  .next (s.perform (.convert src dst))

/-- The command a BUSY engine is running: the latched word `K` decoded (R24, R242). -/
def State.running (s : State) : Option Command :=
  match decode s.latched.k with
  | .ok i => some i.command
  | .error _ => none

/-- The engine's move: nothing while IDLE, else one pixel (R32, R33). -/
def State.engineStep (s : State) : State :=
  if s.status.busy then
    match s.running with
    | some c => s.advance c
    | none => s
  else s

end Sys2Proof.Machine
end

