-- ==== Sys2Proof/Machine/Convert410.lean ====
section
/-! DEFINITION. The ten CONVERT commands to 4:1:0 targets (spec/45_dispatcher.md R240; spec/44_writers_420_411_410.md R223 to R225).
Each meaning is one line over the shared operations of Sequencer.lean, which follow the rules. -/

namespace Sys2Proof.Machine

/-- `CONVERT RGB888, YVU9`, word 0x00031D00 (R240, R151, R224). -/
def execConvertRGB888YVU9 (s : State) : Host.Outcome State Fault Refusal :=
  convertCommand .rgb888 .yvu9 s

/-- `CONVERT RGB565, YVU9`, word 0x00031D01 (R240, R152, R224). -/
def execConvertRGB565YVU9 (s : State) : Host.Outcome State Fault Refusal :=
  convertCommand .rgb565 .yvu9 s

/-- `CONVERT RGB555, YVU9`, word 0x00031D02 (R240, R153, R224). -/
def execConvertRGB555YVU9 (s : State) : Host.Outcome State Fault Refusal :=
  convertCommand .rgb555 .yvu9 s

/-- `CONVERT RGB444, YVU9`, word 0x00031D03 (R240, R154, R224). -/
def execConvertRGB444YVU9 (s : State) : Host.Outcome State Fault Refusal :=
  convertCommand .rgb444 .yvu9 s

/-- `CONVERT RGB888X, YVU9`, word 0x00031D04 (R240, R155, R224). -/
def execConvertRGB888XYVU9 (s : State) : Host.Outcome State Fault Refusal :=
  convertCommand .rgb888x .yvu9 s

/-- `CONVERT RGB888, YUV9`, word 0x00031E00 (R240, R151, R225). -/
def execConvertRGB888YUV9 (s : State) : Host.Outcome State Fault Refusal :=
  convertCommand .rgb888 .yuv9 s

/-- `CONVERT RGB565, YUV9`, word 0x00031E01 (R240, R152, R225). -/
def execConvertRGB565YUV9 (s : State) : Host.Outcome State Fault Refusal :=
  convertCommand .rgb565 .yuv9 s

/-- `CONVERT RGB555, YUV9`, word 0x00031E02 (R240, R153, R225). -/
def execConvertRGB555YUV9 (s : State) : Host.Outcome State Fault Refusal :=
  convertCommand .rgb555 .yuv9 s

/-- `CONVERT RGB444, YUV9`, word 0x00031E03 (R240, R154, R225). -/
def execConvertRGB444YUV9 (s : State) : Host.Outcome State Fault Refusal :=
  convertCommand .rgb444 .yuv9 s

/-- `CONVERT RGB888X, YUV9`, word 0x00031E04 (R240, R155, R225). -/
def execConvertRGB888XYUV9 (s : State) : Host.Outcome State Fault Refusal :=
  convertCommand .rgb888x .yuv9 s

end Sys2Proof.Machine
end

