-- ==== Sys2Proof/Machine/Convert411.lean ====
section
/-! DEFINITION. The ten CONVERT commands to 4:1:1 targets (spec/45_dispatcher.md R240; spec/44_writers_420_411_410.md R217 to R219).
Each meaning is one line over the shared operations of Sequencer.lean, which follow the rules. -/

namespace Sys2Proof.Machine

/-- `CONVERT RGB888, Y41P`, word 0x00031B00 (R240, R151, R218). -/
def execConvertRGB888Y41P (s : State) : Host.Outcome State Fault Refusal :=
  convertCommand .rgb888 .y41p s

/-- `CONVERT RGB565, Y41P`, word 0x00031B01 (R240, R152, R218). -/
def execConvertRGB565Y41P (s : State) : Host.Outcome State Fault Refusal :=
  convertCommand .rgb565 .y41p s

/-- `CONVERT RGB555, Y41P`, word 0x00031B02 (R240, R153, R218). -/
def execConvertRGB555Y41P (s : State) : Host.Outcome State Fault Refusal :=
  convertCommand .rgb555 .y41p s

/-- `CONVERT RGB444, Y41P`, word 0x00031B03 (R240, R154, R218). -/
def execConvertRGB444Y41P (s : State) : Host.Outcome State Fault Refusal :=
  convertCommand .rgb444 .y41p s

/-- `CONVERT RGB888X, Y41P`, word 0x00031B04 (R240, R155, R218). -/
def execConvertRGB888XY41P (s : State) : Host.Outcome State Fault Refusal :=
  convertCommand .rgb888x .y41p s

/-- `CONVERT RGB888, P411`, word 0x00031C00 (R240, R151, R219). -/
def execConvertRGB888P411 (s : State) : Host.Outcome State Fault Refusal :=
  convertCommand .rgb888 .p411 s

/-- `CONVERT RGB565, P411`, word 0x00031C01 (R240, R152, R219). -/
def execConvertRGB565P411 (s : State) : Host.Outcome State Fault Refusal :=
  convertCommand .rgb565 .p411 s

/-- `CONVERT RGB555, P411`, word 0x00031C02 (R240, R153, R219). -/
def execConvertRGB555P411 (s : State) : Host.Outcome State Fault Refusal :=
  convertCommand .rgb555 .p411 s

/-- `CONVERT RGB444, P411`, word 0x00031C03 (R240, R154, R219). -/
def execConvertRGB444P411 (s : State) : Host.Outcome State Fault Refusal :=
  convertCommand .rgb444 .p411 s

/-- `CONVERT RGB888X, P411`, word 0x00031C04 (R240, R155, R219). -/
def execConvertRGB888XP411 (s : State) : Host.Outcome State Fault Refusal :=
  convertCommand .rgb888x .p411 s

end Sys2Proof.Machine
end

