-- ==== Sys2Proof/Machine/Convert420.lean ====
section
/-! DEFINITION. The 20 CONVERT commands to 4:2:0 targets (spec/45_dispatcher.md R240; spec/44_writers_420_411_410.md R211 to R215).
Each meaning is one line over the shared operations of Sequencer.lean, which follow the rules. -/

namespace Sys2Proof.Machine

/-- `CONVERT RGB888, YV12`, word 0x00031700 (R240, R151, R212). -/
def execConvertRGB888YV12 (s : State) : Host.Outcome State Fault Refusal :=
  convertCommand .rgb888 .yv12 s

/-- `CONVERT RGB565, YV12`, word 0x00031701 (R240, R152, R212). -/
def execConvertRGB565YV12 (s : State) : Host.Outcome State Fault Refusal :=
  convertCommand .rgb565 .yv12 s

/-- `CONVERT RGB555, YV12`, word 0x00031702 (R240, R153, R212). -/
def execConvertRGB555YV12 (s : State) : Host.Outcome State Fault Refusal :=
  convertCommand .rgb555 .yv12 s

/-- `CONVERT RGB444, YV12`, word 0x00031703 (R240, R154, R212). -/
def execConvertRGB444YV12 (s : State) : Host.Outcome State Fault Refusal :=
  convertCommand .rgb444 .yv12 s

/-- `CONVERT RGB888X, YV12`, word 0x00031704 (R240, R155, R212). -/
def execConvertRGB888XYV12 (s : State) : Host.Outcome State Fault Refusal :=
  convertCommand .rgb888x .yv12 s

/-- `CONVERT RGB888, YU12`, word 0x00031800 (R240, R151, R213). -/
def execConvertRGB888YU12 (s : State) : Host.Outcome State Fault Refusal :=
  convertCommand .rgb888 .yu12 s

/-- `CONVERT RGB565, YU12`, word 0x00031801 (R240, R152, R213). -/
def execConvertRGB565YU12 (s : State) : Host.Outcome State Fault Refusal :=
  convertCommand .rgb565 .yu12 s

/-- `CONVERT RGB555, YU12`, word 0x00031802 (R240, R153, R213). -/
def execConvertRGB555YU12 (s : State) : Host.Outcome State Fault Refusal :=
  convertCommand .rgb555 .yu12 s

/-- `CONVERT RGB444, YU12`, word 0x00031803 (R240, R154, R213). -/
def execConvertRGB444YU12 (s : State) : Host.Outcome State Fault Refusal :=
  convertCommand .rgb444 .yu12 s

/-- `CONVERT RGB888X, YU12`, word 0x00031804 (R240, R155, R213). -/
def execConvertRGB888XYU12 (s : State) : Host.Outcome State Fault Refusal :=
  convertCommand .rgb888x .yu12 s

/-- `CONVERT RGB888, NV12`, word 0x00031900 (R240, R151, R214). -/
def execConvertRGB888NV12 (s : State) : Host.Outcome State Fault Refusal :=
  convertCommand .rgb888 .nv12 s

/-- `CONVERT RGB565, NV12`, word 0x00031901 (R240, R152, R214). -/
def execConvertRGB565NV12 (s : State) : Host.Outcome State Fault Refusal :=
  convertCommand .rgb565 .nv12 s

/-- `CONVERT RGB555, NV12`, word 0x00031902 (R240, R153, R214). -/
def execConvertRGB555NV12 (s : State) : Host.Outcome State Fault Refusal :=
  convertCommand .rgb555 .nv12 s

/-- `CONVERT RGB444, NV12`, word 0x00031903 (R240, R154, R214). -/
def execConvertRGB444NV12 (s : State) : Host.Outcome State Fault Refusal :=
  convertCommand .rgb444 .nv12 s

/-- `CONVERT RGB888X, NV12`, word 0x00031904 (R240, R155, R214). -/
def execConvertRGB888XNV12 (s : State) : Host.Outcome State Fault Refusal :=
  convertCommand .rgb888x .nv12 s

/-- `CONVERT RGB888, NV21`, word 0x00031A00 (R240, R151, R215). -/
def execConvertRGB888NV21 (s : State) : Host.Outcome State Fault Refusal :=
  convertCommand .rgb888 .nv21 s

/-- `CONVERT RGB565, NV21`, word 0x00031A01 (R240, R152, R215). -/
def execConvertRGB565NV21 (s : State) : Host.Outcome State Fault Refusal :=
  convertCommand .rgb565 .nv21 s

/-- `CONVERT RGB555, NV21`, word 0x00031A02 (R240, R153, R215). -/
def execConvertRGB555NV21 (s : State) : Host.Outcome State Fault Refusal :=
  convertCommand .rgb555 .nv21 s

/-- `CONVERT RGB444, NV21`, word 0x00031A03 (R240, R154, R215). -/
def execConvertRGB444NV21 (s : State) : Host.Outcome State Fault Refusal :=
  convertCommand .rgb444 .nv21 s

/-- `CONVERT RGB888X, NV21`, word 0x00031A04 (R240, R155, R215). -/
def execConvertRGB888XNV21 (s : State) : Host.Outcome State Fault Refusal :=
  convertCommand .rgb888x .nv21 s

end Sys2Proof.Machine
end

