-- ==== Sys2Proof/Machine/Convert422.lean ====
section
/-! DEFINITION. The 25 CONVERT commands to 4:2:2 targets (spec/45_dispatcher.md R240; spec/43_writers_444_422.md R193 to R198).
Each meaning is one line over the shared operations of Sequencer.lean, which follow the rules. -/

namespace Sys2Proof.Machine

/-- `CONVERT RGB888, YUY2`, word 0x00031200 (R240, R151, R194). -/
def execConvertRGB888YUY2 (s : State) : Host.Outcome State Fault Refusal :=
  convertCommand .rgb888 .yuy2 s

/-- `CONVERT RGB565, YUY2`, word 0x00031201 (R240, R152, R194). -/
def execConvertRGB565YUY2 (s : State) : Host.Outcome State Fault Refusal :=
  convertCommand .rgb565 .yuy2 s

/-- `CONVERT RGB555, YUY2`, word 0x00031202 (R240, R153, R194). -/
def execConvertRGB555YUY2 (s : State) : Host.Outcome State Fault Refusal :=
  convertCommand .rgb555 .yuy2 s

/-- `CONVERT RGB444, YUY2`, word 0x00031203 (R240, R154, R194). -/
def execConvertRGB444YUY2 (s : State) : Host.Outcome State Fault Refusal :=
  convertCommand .rgb444 .yuy2 s

/-- `CONVERT RGB888X, YUY2`, word 0x00031204 (R240, R155, R194). -/
def execConvertRGB888XYUY2 (s : State) : Host.Outcome State Fault Refusal :=
  convertCommand .rgb888x .yuy2 s

/-- `CONVERT RGB888, YVYU`, word 0x00031300 (R240, R151, R195). -/
def execConvertRGB888YVYU (s : State) : Host.Outcome State Fault Refusal :=
  convertCommand .rgb888 .yvyu s

/-- `CONVERT RGB565, YVYU`, word 0x00031301 (R240, R152, R195). -/
def execConvertRGB565YVYU (s : State) : Host.Outcome State Fault Refusal :=
  convertCommand .rgb565 .yvyu s

/-- `CONVERT RGB555, YVYU`, word 0x00031302 (R240, R153, R195). -/
def execConvertRGB555YVYU (s : State) : Host.Outcome State Fault Refusal :=
  convertCommand .rgb555 .yvyu s

/-- `CONVERT RGB444, YVYU`, word 0x00031303 (R240, R154, R195). -/
def execConvertRGB444YVYU (s : State) : Host.Outcome State Fault Refusal :=
  convertCommand .rgb444 .yvyu s

/-- `CONVERT RGB888X, YVYU`, word 0x00031304 (R240, R155, R195). -/
def execConvertRGB888XYVYU (s : State) : Host.Outcome State Fault Refusal :=
  convertCommand .rgb888x .yvyu s

/-- `CONVERT RGB888, UYVY`, word 0x00031400 (R240, R151, R196). -/
def execConvertRGB888UYVY (s : State) : Host.Outcome State Fault Refusal :=
  convertCommand .rgb888 .uyvy s

/-- `CONVERT RGB565, UYVY`, word 0x00031401 (R240, R152, R196). -/
def execConvertRGB565UYVY (s : State) : Host.Outcome State Fault Refusal :=
  convertCommand .rgb565 .uyvy s

/-- `CONVERT RGB555, UYVY`, word 0x00031402 (R240, R153, R196). -/
def execConvertRGB555UYVY (s : State) : Host.Outcome State Fault Refusal :=
  convertCommand .rgb555 .uyvy s

/-- `CONVERT RGB444, UYVY`, word 0x00031403 (R240, R154, R196). -/
def execConvertRGB444UYVY (s : State) : Host.Outcome State Fault Refusal :=
  convertCommand .rgb444 .uyvy s

/-- `CONVERT RGB888X, UYVY`, word 0x00031404 (R240, R155, R196). -/
def execConvertRGB888XUYVY (s : State) : Host.Outcome State Fault Refusal :=
  convertCommand .rgb888x .uyvy s

/-- `CONVERT RGB888, VYUY`, word 0x00031500 (R240, R151, R197). -/
def execConvertRGB888VYUY (s : State) : Host.Outcome State Fault Refusal :=
  convertCommand .rgb888 .vyuy s

/-- `CONVERT RGB565, VYUY`, word 0x00031501 (R240, R152, R197). -/
def execConvertRGB565VYUY (s : State) : Host.Outcome State Fault Refusal :=
  convertCommand .rgb565 .vyuy s

/-- `CONVERT RGB555, VYUY`, word 0x00031502 (R240, R153, R197). -/
def execConvertRGB555VYUY (s : State) : Host.Outcome State Fault Refusal :=
  convertCommand .rgb555 .vyuy s

/-- `CONVERT RGB444, VYUY`, word 0x00031503 (R240, R154, R197). -/
def execConvertRGB444VYUY (s : State) : Host.Outcome State Fault Refusal :=
  convertCommand .rgb444 .vyuy s

/-- `CONVERT RGB888X, VYUY`, word 0x00031504 (R240, R155, R197). -/
def execConvertRGB888XVYUY (s : State) : Host.Outcome State Fault Refusal :=
  convertCommand .rgb888x .vyuy s

/-- `CONVERT RGB888, P422`, word 0x00031600 (R240, R151, R198). -/
def execConvertRGB888P422 (s : State) : Host.Outcome State Fault Refusal :=
  convertCommand .rgb888 .p422 s

/-- `CONVERT RGB565, P422`, word 0x00031601 (R240, R152, R198). -/
def execConvertRGB565P422 (s : State) : Host.Outcome State Fault Refusal :=
  convertCommand .rgb565 .p422 s

/-- `CONVERT RGB555, P422`, word 0x00031602 (R240, R153, R198). -/
def execConvertRGB555P422 (s : State) : Host.Outcome State Fault Refusal :=
  convertCommand .rgb555 .p422 s

/-- `CONVERT RGB444, P422`, word 0x00031603 (R240, R154, R198). -/
def execConvertRGB444P422 (s : State) : Host.Outcome State Fault Refusal :=
  convertCommand .rgb444 .p422 s

/-- `CONVERT RGB888X, P422`, word 0x00031604 (R240, R155, R198). -/
def execConvertRGB888XP422 (s : State) : Host.Outcome State Fault Refusal :=
  convertCommand .rgb888x .p422 s

end Sys2Proof.Machine
end

