-- ==== Sys2Proof/Machine/Convert444.lean ====
section
/-! DEFINITION. The ten CONVERT commands to 4:4:4 targets (spec/45_dispatcher.md R240; spec/43_writers_444_422.md R191, R192).
Each meaning is one line over the shared operations of Sequencer.lean, which follow the rules. -/

namespace Sys2Proof.Machine

/-- `CONVERT RGB888, NV24`, word 0x00031000 (R240, R151, R191). -/
def execConvertRGB888NV24 (s : State) : Host.Outcome State Fault Refusal :=
  convertCommand .rgb888 .nv24 s

/-- `CONVERT RGB565, NV24`, word 0x00031001 (R240, R152, R191). -/
def execConvertRGB565NV24 (s : State) : Host.Outcome State Fault Refusal :=
  convertCommand .rgb565 .nv24 s

/-- `CONVERT RGB555, NV24`, word 0x00031002 (R240, R153, R191). -/
def execConvertRGB555NV24 (s : State) : Host.Outcome State Fault Refusal :=
  convertCommand .rgb555 .nv24 s

/-- `CONVERT RGB444, NV24`, word 0x00031003 (R240, R154, R191). -/
def execConvertRGB444NV24 (s : State) : Host.Outcome State Fault Refusal :=
  convertCommand .rgb444 .nv24 s

/-- `CONVERT RGB888X, NV24`, word 0x00031004 (R240, R155, R191). -/
def execConvertRGB888XNV24 (s : State) : Host.Outcome State Fault Refusal :=
  convertCommand .rgb888x .nv24 s

/-- `CONVERT RGB888, NV42`, word 0x00031100 (R240, R151, R192). -/
def execConvertRGB888NV42 (s : State) : Host.Outcome State Fault Refusal :=
  convertCommand .rgb888 .nv42 s

/-- `CONVERT RGB565, NV42`, word 0x00031101 (R240, R152, R192). -/
def execConvertRGB565NV42 (s : State) : Host.Outcome State Fault Refusal :=
  convertCommand .rgb565 .nv42 s

/-- `CONVERT RGB555, NV42`, word 0x00031102 (R240, R153, R192). -/
def execConvertRGB555NV42 (s : State) : Host.Outcome State Fault Refusal :=
  convertCommand .rgb555 .nv42 s

/-- `CONVERT RGB444, NV42`, word 0x00031103 (R240, R154, R192). -/
def execConvertRGB444NV42 (s : State) : Host.Outcome State Fault Refusal :=
  convertCommand .rgb444 .nv42 s

/-- `CONVERT RGB888X, NV42`, word 0x00031104 (R240, R155, R192). -/
def execConvertRGB888XNV42 (s : State) : Host.Outcome State Fault Refusal :=
  convertCommand .rgb888x .nv42 s

end Sys2Proof.Machine
end

