-- ==== Sys2Proof/Machine/Nop.lean ====
section
/-! DEFINITION. The NOP command (spec/45_dispatcher.md R251).
Each meaning is one line over the shared operations of Sequencer.lean, which follow the rules. -/

namespace Sys2Proof.Machine

/-- `NOP`, word 0x00000000 (R251). -/
def execNop (s : State) : Host.Outcome State Fault Refusal :=
  nopCommand s

end Sys2Proof.Machine
end

