-- ==== Sys2Proof/Machine/Normalize.lean ====
section
/-! DEFINITION. The five NORMALIZE commands (spec/41_normalizer.md R156, unpacking R151 to R155).
Each meaning is one line over the shared operations of Sequencer.lean, which follow the rules. -/

namespace Sys2Proof.Machine

/-- `NORMALIZE RGB888`, word 0x00020000 (R156, R151). -/
def execNormalizeRGB888 (s : State) : Host.Outcome State Fault Refusal :=
  normalizeCommand .rgb888 s

/-- `NORMALIZE RGB565`, word 0x00020001 (R156, R152). -/
def execNormalizeRGB565 (s : State) : Host.Outcome State Fault Refusal :=
  normalizeCommand .rgb565 s

/-- `NORMALIZE RGB555`, word 0x00020002 (R156, R153). -/
def execNormalizeRGB555 (s : State) : Host.Outcome State Fault Refusal :=
  normalizeCommand .rgb555 s

/-- `NORMALIZE RGB444`, word 0x00020003 (R156, R154). -/
def execNormalizeRGB444 (s : State) : Host.Outcome State Fault Refusal :=
  normalizeCommand .rgb444 s

/-- `NORMALIZE RGB888X`, word 0x00020004 (R156, R155). -/
def execNormalizeRGB888X (s : State) : Host.Outcome State Fault Refusal :=
  normalizeCommand .rgb888x s

end Sys2Proof.Machine
end

