-- ==== Sys2Proof/Machine/Reqbytes.lean ====
section
/-! DEFINITION. The twenty REQBYTES commands (spec/40_required_bytes.md R141, sizes R121 to R140).
Each meaning is one line over the shared operations of Sequencer.lean, which follow the rules. -/

namespace Sys2Proof.Machine

/-- `REQBYTES RGB888`, word 0x00010000 (R141, R121). -/
def execReqbytesRGB888 (s : State) : Host.Outcome State Fault Refusal :=
  reqbytesCommand (.rgb .rgb888) s

/-- `REQBYTES RGB565`, word 0x00010001 (R141, R122). -/
def execReqbytesRGB565 (s : State) : Host.Outcome State Fault Refusal :=
  reqbytesCommand (.rgb .rgb565) s

/-- `REQBYTES RGB555`, word 0x00010002 (R141, R123). -/
def execReqbytesRGB555 (s : State) : Host.Outcome State Fault Refusal :=
  reqbytesCommand (.rgb .rgb555) s

/-- `REQBYTES RGB444`, word 0x00010003 (R141, R124). -/
def execReqbytesRGB444 (s : State) : Host.Outcome State Fault Refusal :=
  reqbytesCommand (.rgb .rgb444) s

/-- `REQBYTES RGB888X`, word 0x00010004 (R141, R125). -/
def execReqbytesRGB888X (s : State) : Host.Outcome State Fault Refusal :=
  reqbytesCommand (.rgb .rgb888x) s

/-- `REQBYTES NV24`, word 0x00010010 (R141, R126). -/
def execReqbytesNV24 (s : State) : Host.Outcome State Fault Refusal :=
  reqbytesCommand (.yuv .nv24) s

/-- `REQBYTES NV42`, word 0x00010011 (R141, R127). -/
def execReqbytesNV42 (s : State) : Host.Outcome State Fault Refusal :=
  reqbytesCommand (.yuv .nv42) s

/-- `REQBYTES YUY2`, word 0x00010012 (R141, R128). -/
def execReqbytesYUY2 (s : State) : Host.Outcome State Fault Refusal :=
  reqbytesCommand (.yuv .yuy2) s

/-- `REQBYTES YVYU`, word 0x00010013 (R141, R129). -/
def execReqbytesYVYU (s : State) : Host.Outcome State Fault Refusal :=
  reqbytesCommand (.yuv .yvyu) s

/-- `REQBYTES UYVY`, word 0x00010014 (R141, R130). -/
def execReqbytesUYVY (s : State) : Host.Outcome State Fault Refusal :=
  reqbytesCommand (.yuv .uyvy) s

/-- `REQBYTES VYUY`, word 0x00010015 (R141, R131). -/
def execReqbytesVYUY (s : State) : Host.Outcome State Fault Refusal :=
  reqbytesCommand (.yuv .vyuy) s

/-- `REQBYTES P422`, word 0x00010016 (R141, R132). -/
def execReqbytesP422 (s : State) : Host.Outcome State Fault Refusal :=
  reqbytesCommand (.yuv .p422) s

/-- `REQBYTES YV12`, word 0x00010017 (R141, R133). -/
def execReqbytesYV12 (s : State) : Host.Outcome State Fault Refusal :=
  reqbytesCommand (.yuv .yv12) s

/-- `REQBYTES YU12`, word 0x00010018 (R141, R134). -/
def execReqbytesYU12 (s : State) : Host.Outcome State Fault Refusal :=
  reqbytesCommand (.yuv .yu12) s

/-- `REQBYTES NV12`, word 0x00010019 (R141, R135). -/
def execReqbytesNV12 (s : State) : Host.Outcome State Fault Refusal :=
  reqbytesCommand (.yuv .nv12) s

/-- `REQBYTES NV21`, word 0x0001001A (R141, R136). -/
def execReqbytesNV21 (s : State) : Host.Outcome State Fault Refusal :=
  reqbytesCommand (.yuv .nv21) s

/-- `REQBYTES Y41P`, word 0x0001001B (R141, R137). -/
def execReqbytesY41P (s : State) : Host.Outcome State Fault Refusal :=
  reqbytesCommand (.yuv .y41p) s

/-- `REQBYTES P411`, word 0x0001001C (R141, R138). -/
def execReqbytesP411 (s : State) : Host.Outcome State Fault Refusal :=
  reqbytesCommand (.yuv .p411) s

/-- `REQBYTES YVU9`, word 0x0001001D (R141, R139). -/
def execReqbytesYVU9 (s : State) : Host.Outcome State Fault Refusal :=
  reqbytesCommand (.yuv .yvu9) s

/-- `REQBYTES YUV9`, word 0x0001001E (R141, R140). -/
def execReqbytesYUV9 (s : State) : Host.Outcome State Fault Refusal :=
  reqbytesCommand (.yuv .yuv9) s

end Sys2Proof.Machine
end

