-- ==== Sys2Proof/Machine/Dispatch.lean ====
section
/-! DEFINITION. One arm per instruction, each one direct call of its meaning (spec/30_encoding.md R92 step 5). -/

namespace Sys2Proof.Machine

def exec (i : Instr) (s : State) : Host.Outcome State Fault Refusal :=
  match i with
  | .nop => Sys2Proof.Machine.execNop s
  | .reqbytesRGB888 => Sys2Proof.Machine.execReqbytesRGB888 s
  | .reqbytesRGB565 => Sys2Proof.Machine.execReqbytesRGB565 s
  | .reqbytesRGB555 => Sys2Proof.Machine.execReqbytesRGB555 s
  | .reqbytesRGB444 => Sys2Proof.Machine.execReqbytesRGB444 s
  | .reqbytesRGB888X => Sys2Proof.Machine.execReqbytesRGB888X s
  | .reqbytesNV24 => Sys2Proof.Machine.execReqbytesNV24 s
  | .reqbytesNV42 => Sys2Proof.Machine.execReqbytesNV42 s
  | .reqbytesYUY2 => Sys2Proof.Machine.execReqbytesYUY2 s
  | .reqbytesYVYU => Sys2Proof.Machine.execReqbytesYVYU s
  | .reqbytesUYVY => Sys2Proof.Machine.execReqbytesUYVY s
  | .reqbytesVYUY => Sys2Proof.Machine.execReqbytesVYUY s
  | .reqbytesP422 => Sys2Proof.Machine.execReqbytesP422 s
  | .reqbytesYV12 => Sys2Proof.Machine.execReqbytesYV12 s
  | .reqbytesYU12 => Sys2Proof.Machine.execReqbytesYU12 s
  | .reqbytesNV12 => Sys2Proof.Machine.execReqbytesNV12 s
  | .reqbytesNV21 => Sys2Proof.Machine.execReqbytesNV21 s
  | .reqbytesY41P => Sys2Proof.Machine.execReqbytesY41P s
  | .reqbytesP411 => Sys2Proof.Machine.execReqbytesP411 s
  | .reqbytesYVU9 => Sys2Proof.Machine.execReqbytesYVU9 s
  | .reqbytesYUV9 => Sys2Proof.Machine.execReqbytesYUV9 s
  | .normalizeRGB888 => Sys2Proof.Machine.execNormalizeRGB888 s
  | .normalizeRGB565 => Sys2Proof.Machine.execNormalizeRGB565 s
  | .normalizeRGB555 => Sys2Proof.Machine.execNormalizeRGB555 s
  | .normalizeRGB444 => Sys2Proof.Machine.execNormalizeRGB444 s
  | .normalizeRGB888X => Sys2Proof.Machine.execNormalizeRGB888X s
  | .convertRGB888NV24 => Sys2Proof.Machine.execConvertRGB888NV24 s
  | .convertRGB565NV24 => Sys2Proof.Machine.execConvertRGB565NV24 s
  | .convertRGB555NV24 => Sys2Proof.Machine.execConvertRGB555NV24 s
  | .convertRGB444NV24 => Sys2Proof.Machine.execConvertRGB444NV24 s
  | .convertRGB888XNV24 => Sys2Proof.Machine.execConvertRGB888XNV24 s
  | .convertRGB888NV42 => Sys2Proof.Machine.execConvertRGB888NV42 s
  | .convertRGB565NV42 => Sys2Proof.Machine.execConvertRGB565NV42 s
  | .convertRGB555NV42 => Sys2Proof.Machine.execConvertRGB555NV42 s
  | .convertRGB444NV42 => Sys2Proof.Machine.execConvertRGB444NV42 s
  | .convertRGB888XNV42 => Sys2Proof.Machine.execConvertRGB888XNV42 s
  | .convertRGB888YUY2 => Sys2Proof.Machine.execConvertRGB888YUY2 s
  | .convertRGB565YUY2 => Sys2Proof.Machine.execConvertRGB565YUY2 s
  | .convertRGB555YUY2 => Sys2Proof.Machine.execConvertRGB555YUY2 s
  | .convertRGB444YUY2 => Sys2Proof.Machine.execConvertRGB444YUY2 s
  | .convertRGB888XYUY2 => Sys2Proof.Machine.execConvertRGB888XYUY2 s
  | .convertRGB888YVYU => Sys2Proof.Machine.execConvertRGB888YVYU s
  | .convertRGB565YVYU => Sys2Proof.Machine.execConvertRGB565YVYU s
  | .convertRGB555YVYU => Sys2Proof.Machine.execConvertRGB555YVYU s
  | .convertRGB444YVYU => Sys2Proof.Machine.execConvertRGB444YVYU s
  | .convertRGB888XYVYU => Sys2Proof.Machine.execConvertRGB888XYVYU s
  | .convertRGB888UYVY => Sys2Proof.Machine.execConvertRGB888UYVY s
  | .convertRGB565UYVY => Sys2Proof.Machine.execConvertRGB565UYVY s
  | .convertRGB555UYVY => Sys2Proof.Machine.execConvertRGB555UYVY s
  | .convertRGB444UYVY => Sys2Proof.Machine.execConvertRGB444UYVY s
  | .convertRGB888XUYVY => Sys2Proof.Machine.execConvertRGB888XUYVY s
  | .convertRGB888VYUY => Sys2Proof.Machine.execConvertRGB888VYUY s
  | .convertRGB565VYUY => Sys2Proof.Machine.execConvertRGB565VYUY s
  | .convertRGB555VYUY => Sys2Proof.Machine.execConvertRGB555VYUY s
  | .convertRGB444VYUY => Sys2Proof.Machine.execConvertRGB444VYUY s
  | .convertRGB888XVYUY => Sys2Proof.Machine.execConvertRGB888XVYUY s
  | .convertRGB888P422 => Sys2Proof.Machine.execConvertRGB888P422 s
  | .convertRGB565P422 => Sys2Proof.Machine.execConvertRGB565P422 s
  | .convertRGB555P422 => Sys2Proof.Machine.execConvertRGB555P422 s
  | .convertRGB444P422 => Sys2Proof.Machine.execConvertRGB444P422 s
  | .convertRGB888XP422 => Sys2Proof.Machine.execConvertRGB888XP422 s
  | .convertRGB888YV12 => Sys2Proof.Machine.execConvertRGB888YV12 s
  | .convertRGB565YV12 => Sys2Proof.Machine.execConvertRGB565YV12 s
  | .convertRGB555YV12 => Sys2Proof.Machine.execConvertRGB555YV12 s
  | .convertRGB444YV12 => Sys2Proof.Machine.execConvertRGB444YV12 s
  | .convertRGB888XYV12 => Sys2Proof.Machine.execConvertRGB888XYV12 s
  | .convertRGB888YU12 => Sys2Proof.Machine.execConvertRGB888YU12 s
  | .convertRGB565YU12 => Sys2Proof.Machine.execConvertRGB565YU12 s
  | .convertRGB555YU12 => Sys2Proof.Machine.execConvertRGB555YU12 s
  | .convertRGB444YU12 => Sys2Proof.Machine.execConvertRGB444YU12 s
  | .convertRGB888XYU12 => Sys2Proof.Machine.execConvertRGB888XYU12 s
  | .convertRGB888NV12 => Sys2Proof.Machine.execConvertRGB888NV12 s
  | .convertRGB565NV12 => Sys2Proof.Machine.execConvertRGB565NV12 s
  | .convertRGB555NV12 => Sys2Proof.Machine.execConvertRGB555NV12 s
  | .convertRGB444NV12 => Sys2Proof.Machine.execConvertRGB444NV12 s
  | .convertRGB888XNV12 => Sys2Proof.Machine.execConvertRGB888XNV12 s
  | .convertRGB888NV21 => Sys2Proof.Machine.execConvertRGB888NV21 s
  | .convertRGB565NV21 => Sys2Proof.Machine.execConvertRGB565NV21 s
  | .convertRGB555NV21 => Sys2Proof.Machine.execConvertRGB555NV21 s
  | .convertRGB444NV21 => Sys2Proof.Machine.execConvertRGB444NV21 s
  | .convertRGB888XNV21 => Sys2Proof.Machine.execConvertRGB888XNV21 s
  | .convertRGB888Y41P => Sys2Proof.Machine.execConvertRGB888Y41P s
  | .convertRGB565Y41P => Sys2Proof.Machine.execConvertRGB565Y41P s
  | .convertRGB555Y41P => Sys2Proof.Machine.execConvertRGB555Y41P s
  | .convertRGB444Y41P => Sys2Proof.Machine.execConvertRGB444Y41P s
  | .convertRGB888XY41P => Sys2Proof.Machine.execConvertRGB888XY41P s
  | .convertRGB888P411 => Sys2Proof.Machine.execConvertRGB888P411 s
  | .convertRGB565P411 => Sys2Proof.Machine.execConvertRGB565P411 s
  | .convertRGB555P411 => Sys2Proof.Machine.execConvertRGB555P411 s
  | .convertRGB444P411 => Sys2Proof.Machine.execConvertRGB444P411 s
  | .convertRGB888XP411 => Sys2Proof.Machine.execConvertRGB888XP411 s
  | .convertRGB888YVU9 => Sys2Proof.Machine.execConvertRGB888YVU9 s
  | .convertRGB565YVU9 => Sys2Proof.Machine.execConvertRGB565YVU9 s
  | .convertRGB555YVU9 => Sys2Proof.Machine.execConvertRGB555YVU9 s
  | .convertRGB444YVU9 => Sys2Proof.Machine.execConvertRGB444YVU9 s
  | .convertRGB888XYVU9 => Sys2Proof.Machine.execConvertRGB888XYVU9 s
  | .convertRGB888YUV9 => Sys2Proof.Machine.execConvertRGB888YUV9 s
  | .convertRGB565YUV9 => Sys2Proof.Machine.execConvertRGB565YUV9 s
  | .convertRGB555YUV9 => Sys2Proof.Machine.execConvertRGB555YUV9 s
  | .convertRGB444YUV9 => Sys2Proof.Machine.execConvertRGB444YUV9 s
  | .convertRGB888XYUV9 => Sys2Proof.Machine.execConvertRGB888XYUV9 s

end Sys2Proof.Machine
end

