-- ==== Sys2Proof/Machine/HostPort.lean ====
section
/-! DEFINITION. What each input does: the host's register and memory accesses, the engine's moves, reset
(spec/10_state.md R21 to R31, spec/20_memory.md R70, R71, R75, spec/70_reset_and_hazards.md R290 to R304). -/

namespace Sys2Proof.Machine

/-! ### Commands -/

/-- A word written to CMD whose command runs to its end before the next input: ignored while BUSY, else decoded and
executed, or refused with E_OP or E_FMT (R25, R92, R262). -/
def cmdWrite (k : Word) (s : State) : Host.Outcome State Fault Refusal :=
  if s.status.busy then .next s
  else
    match decode k with
    | .ok i => exec i s
    | .error e => .next (s.refuse k (decodeErrorCode e))

/-- A word written to CMD whose command is left running: the same issue, without the pixels (R25, R32, R301). -/
def cmdIssue (k : Word) (s : State) : State :=
  if s.status.busy then s
  else
    match decode k with
    | .ok i => s.begin i.command
    | .error e => s.refuse k (decodeErrorCode e)

/-! ### Register accesses -/

/-- Only aligned whole words have a meaning (R31). -/
def accessRefusal (size : AccessSize) (offset : Nat) : Option Refusal :=
  match size with
  | .word => if offset % 4 = 0 then none else some .misalignedRegisterAccess
  | _ => some .narrowRegisterAccess

/-- A host write to a register (R21 to R25, R299). -/
def regWrite (size : AccessSize) (offset : Nat) (v : Word) (s : State) : Host.Outcome State Fault Refusal :=
  match accessRefusal size offset with
  | some r => .refused r
  | none => if offset = 0 then cmdWrite v s else .next (s.writeReg offset v)

/-- A host read of a register, logged; a read of STATUS that shows BUSY = 0 ends the lending of every buffer (R298). -/
def State.readLogged (s : State) (offset : Nat) : State :=
  { s with
    replies := s.replies ++ [.word (s.readReg offset)]
    lent := if offset = 4 && !s.status.busy then [] else s.lent }

/-- A host read of a register (R21 to R29, R31, R299). -/
def regRead (size : AccessSize) (offset : Nat) (s : State) : Host.Outcome State Fault Refusal :=
  match accessRefusal size offset with
  | some r => .refused r
  | none => .next (s.readLogged offset)

/-! ### Memory accesses -/

/-- `[a, a + len)` meets the source range or the write set of a lending. -/
def Lending.touches (b : Lending) (a len : Nat) : Bool :=
  overlap a len b.srcBase b.srcLen || overlap a len b.dstBase b.dstLen

/-- A write into the buffers of a command that has completed but was not yet seen to: every byte of its write set is any
value (R71, R298). -/
def State.disturbFinished (s : State) (a len : Nat) : List Lending → State
  | [] => s
  | b :: bs =>
    State.disturbFinished (if b.touches a len then s.scramble b.dstBase b.dstLen else s) a len bs

/-- The effect of a host write to `[a, a + len)` on the buffers that are lent (R71): of finished commands at once, of the
running one, the newest, at its completion. -/
def State.disturb (s : State) (a len : Nat) : State :=
  if s.status.busy then
    match s.lent with
    | [] => s
    | b :: bs =>
      let t := s.disturbFinished a len bs
      if b.touches a len then { t with disturbed := true } else t
  else s.disturbFinished a len s.lent

/-- A host write of bytes to `MEM` (R75), with what it does to lent buffers (R71). -/
def hostWrite (a : Nat) (bytes : List Byte) (s : State) : Host.Outcome State Fault Refusal :=
  if inside s.cfg.memSize a bytes.length then
    .next (State.disturb { s with mem := memWriteBytes s.mem a bytes } a bytes.length)
  else .fault .hostAddressOutsideMem

/-- A byte of a write set that is lent: reading it gives any value (R71). -/
def State.unsettled (s : State) (a : Nat) : Bool :=
  s.lent.any fun b => overlap a 1 b.dstBase b.dstLen

/-- The bytes a host read of `[a, a + len)` returns; `k` numbers the free draws (R71). -/
def State.hostBytes (s : State) (k a : Nat) : Nat → List Byte
  | 0 => []
  | len + 1 =>
    (if s.unsettled a then Config.freeByte k else memRead s.mem a) :: State.hostBytes s (k + 1) (a + 1) len

/-- A host read of `MEM` (R75, R298). -/
def hostRead (a len : Nat) (s : State) : Host.Outcome State Fault Refusal :=
  if inside s.cfg.memSize a len then
    .next { s with replies := s.replies ++ [.bytes (s.hostBytes s.draws a len)], draws := s.draws + len }
  else .fault .hostAddressOutsideMem

/-! ### Reset -/

/-- The memory after a reset in mid-command: each byte of the write set keeps its value from before the command or takes
the value the command would have written, by a free choice per byte; no other byte changes (R291, log 9). `t` is the
machine as it would have completed. -/
def abandonedMem (s t : State) (r : Nat × Nat) : List Host.Cell :=
  memFill s.mem r.1 (fun i =>
    if Config.resetKeepsOld (t.draws + i) then memRead s.before (r.1 + i) else memRead t.mem (r.1 + i)) r.2

/-- Every register at its reset value (R40); memory, parameters and the model's own lists as given. -/
def State.resetRegisters (s : State) : State :=
  { s with
    status := Status.reset, width := 0, height := 0, srcAddr := 0, canAddr := 0, dstAddr := 0, dstLen := 0
    result := 0, canPtr := 0, latched := Latched.reset, pixel := 0, accU := [], accV := []
    before := [], disturbed := false, lent := [] }

/-- Reset (R290): it does not touch `MEM`, but that a command it abandons may have written part of its write set
(R291). -/
def State.applyReset (s : State) : State :=
  if s.status.busy then
    match s.running with
    | some c =>
      let t := s.runToEnd c
      State.resetRegisters { s with mem := abandonedMem s t (writeRange c s.latched)
                                    draws := t.draws + (writeRange c s.latched).2 }
    | none => s.resetRegisters
  else s.resetRegisters

/-! ### The next input -/

/-- One input, already taken from the inbox. -/
def serve (e : Event) (s : State) : Host.Outcome State Fault Refusal :=
  match e with
  | .regWrite size offset v => regWrite size offset v s
  | .cmdIssue k => .next (cmdIssue k s)
  | .regRead size offset => regRead size offset s
  | .memWrite a bytes => hostWrite a bytes s
  | .memRead a len => hostRead a len s
  | .engine => .next s.engineStep
  | .wait => if s.status.busy then .next { s.engineStep with inbox := .wait :: s.inbox } else .next (s.readLogged 4)
  | .reset => .next s.applyReset

/-- The machine's next move: the next input, or, with none waiting, the engine's own (R32, R33, R304). -/
def serveNext (s : State) : Host.Outcome State Fault Refusal :=
  match s.inbox with
  | [] => .next s.engineStep
  | e :: rest => serve e { s with inbox := rest }

/-- The input by which the word `w` (`nbits` of its bits given, the rest 0) reaches the engine next: a host's write to
CMD at the head of the inbox. -/
def State.putCommand (s : State) (nbits w : Nat) : State :=
  { s with inbox := .regWrite .word 0 (BitVec.ofNat 32 (w % 2 ^ nbits)) :: s.inbox }

end Sys2Proof.Machine
end

