-- ==== Sys2Proof/Machine/Step.lean ====
section
/-! DEFINITION. The step and the place it takes its next instruction from. The engine fetches nothing from memory
(spec/10_state.md R33): its next instruction is the word the host writes to CMD next, the head of the inbox. -/

namespace Sys2Proof.Machine

/-- One step: the next input, or the engine's own move (HostPort.lean). -/
def step (s : State) : Host.Outcome State Fault Refusal := serveNext s

/-- The state in which the next step runs the word `w` (log 1). -/
def State.withFetchWord (s : State) (nbits w : Nat) : State := s.putCommand nbits w

end Sys2Proof.Machine
end

