-- ==== Sys2Proof/Safety.lean ====
section
/-! DEFINITION. The terms that statements about the machine use: legal states, commands ready to run, the closed forms of
the writer rules, and a host that keeps its protocol. No definition of the machine uses them. -/

namespace Sys2Proof.Machine

/-! ### Legal states -/

/-- STATUS as R26 and R27 of spec/10_state.md allow it: at most one flag, ERRCODE 1 to 6 with ERR and 0 without. -/
def Status.legal (t : Status) : Bool :=
  !(t.busy && t.done) && !(t.busy && t.err) && !(t.done && t.err) &&
  (if t.err then decide (1 ≤ t.errCode.toNat) && decide (t.errCode.toNat ≤ 6) else t.errCode == 0)

/-- An accumulator array in canonical form with indices below 32768 (R36). -/
def accLegal (acc : List (Nat × BitVec 12)) : Bool :=
  sparseWf acc && acc.all fun e => decide (e.1 < 32768)

/-- A running command: a NORMALIZE or CONVERT that passed its checks, its pixel index in range, its buffers lent. -/
def State.runningLegal (s : State) : Bool :=
  match s.running with
  | some (.normalize src) =>
    (issueCheck (.normalize src) s.cfg s.latched).isNone && s.lent.head? == some (lendingOf (.normalize src) s.latched)
  | some (.convert src dst) =>
    (issueCheck (.convert src dst) s.cfg s.latched).isNone &&
    s.lent.head? == some (lendingOf (.convert src dst) s.latched)
  | _ => false

/-- What every state a run can reach keeps. -/
structure State.Legal (s : State) : Prop where
  /-- R4: `0 < MEM_SIZE <= 2^AW` -/
  cfg : s.cfg.wf
  /-- R23: WIDTH and HEIGHT have no bit from `DIM_BITS` up -/
  dimensions : s.width.toNat < 2 ^ s.cfg.dimBits.val ∧ s.height.toNat < 2 ^ s.cfg.dimBits.val
  /-- R23: the address registers have no bit from `AW` up -/
  addresses : s.srcAddr.toNat < 2 ^ s.cfg.aw.val ∧ s.canAddr.toNat < 2 ^ s.cfg.aw.val ∧
    s.dstAddr.toNat < 2 ^ s.cfg.aw.val
  /-- R26, R27 -/
  status : s.status.legal = true
  /-- the memory is canonical -/
  memWf : memWf s.mem = true
  /-- R39: every byte listed exists -/
  memInside : ∀ e ∈ s.mem, e.1 < s.cfg.memSize
  /-- R36 -/
  accU : accLegal s.accU = true
  /-- R36 -/
  accV : accLegal s.accV = true
  /-- R67: every write set lent lies in the memory -/
  lentInside : ∀ b ∈ s.lent, inside s.cfg.memSize b.dstBase b.dstLen = true
  /-- R24, R32, R33: BUSY only with an accepted command, `P = W * H`, `n <= P` -/
  running : s.status.busy = true → s.runningLegal = true ∧
    s.latched.p.toNat = s.latched.w.toNat * s.latched.h.toNat ∧ s.pixel.toNat ≤ s.latched.p.toNat

/-! ### Commands ready to run, in the spec's own terms -/

/-- `P = W * H` of the host's registers (R24). -/
def State.pixels (s : State) : Nat := s.width.toNat * s.height.toNat

/-- `[x, x + len)` lies in the memory (spec/60_exceptions.md R267). -/
def State.Holds (s : State) (x len : Nat) : Prop := len = 0 ∨ x + len ≤ s.cfg.memSize

/-- `[x, x + a)` and `[y, y + b)` share no byte (spec/60_exceptions.md R268). -/
def Apart (x a y b : Nat) : Prop := a = 0 ∨ b = 0 ∨ y + b ≤ x ∨ x + a ≤ y

/-- The conditions under which `NORMALIZE src` is accepted, `src` not RGB888 (R156, R263, R267, R268). -/
structure NormalizeReady (s : State) (src : RgbTag) : Prop where
  idle : s.status.busy = false
  source : s.Holds s.srcAddr.toNat (rgbBytes src s.pixels)
  canonical : s.Holds s.canAddr.toNat (3 * s.pixels)
  apart : Apart s.srcAddr.toNat (rgbBytes src s.pixels) s.canAddr.toNat (3 * s.pixels)

/-- The width and height condition of a target (R211, R223, R265). -/
def DimsFit (dst : YuvTag) (w h : Nat) : Prop :=
  match dst with
  | .yv12 | .yu12 | .nv12 | .nv21 => w % 2 = 0 ∧ h % 2 = 0
  | .yvu9 | .yuv9 => w % 4 = 0 ∧ h % 4 = 0
  | _ => True

/-- The conditions under which `CONVERT src, dst` is accepted (R240, R263 to R268). -/
structure ConvertReady (s : State) (src : RgbTag) (dst : YuvTag) : Prop where
  idle : s.status.busy = false
  supported : (src, dst) ∈ s.cfg.supportedPairs
  divides : s.pixels % yuvDivisor dst = 0
  dims : DimsFit dst s.width.toNat s.height.toNat
  size : s.dstLen.toNat = yuvBytes dst s.pixels
  source : s.Holds s.srcAddr.toNat (rgbBytes src s.pixels)
  destination : s.Holds s.dstAddr.toNat (yuvBytes dst s.pixels)
  apart : Apart s.srcAddr.toNat (rgbBytes src s.pixels) s.dstAddr.toNat (yuvBytes dst s.pixels)

/-! ### What a command leaves -/

/-- STATUS after a completed command: DONE alone. -/
def Status.doneOnly : Status := { busy := false, done := true, err := false, errCode := 0 }

/-- STATUS after a refused command: ERR and the code (R262). -/
def Status.errOnly (code : BitVec 8) : Status := { busy := false, done := false, err := true, errCode := code }

/-- A word refused with a code: operands latched, ERR and ERRCODE set, nothing else changed (R262). -/
def refusedWith (s : State) (k : Word) (code : BitVec 8) : State :=
  { s with latched := s.latchOf k, status := .errOnly code }

/-- What a completed NORMALIZE or CONVERT leaves in every field but the memory, the accumulators and CAN_PTR: DONE, the
latched operands, `n = P`; the host's registers, RESULT, the configuration and the inputs as before. -/
structure CompletedFrame (s t : State) (c : Command) : Prop where
  cfg : t.cfg = s.cfg
  status : t.status = .doneOnly
  width : t.width = s.width
  height : t.height = s.height
  srcAddr : t.srcAddr = s.srcAddr
  canAddr : t.canAddr = s.canAddr
  dstAddr : t.dstAddr = s.dstAddr
  dstLen : t.dstLen = s.dstLen
  result : t.result = s.result
  latched : t.latched = s.latchOf c.word
  pixel : t.pixel.toNat = s.pixels
  before : t.before = []
  disturbed : t.disturbed = false
  lent : t.lent = lendingOf c (s.latchOf c.word) :: s.lent
  draws : t.draws = s.draws
  inbox : t.inbox = s.inbox
  replies : t.replies = s.replies

/-- Every byte outside `[base, base + len)` is as before (R68). -/
def SameOutside (m m' : List Host.Cell) (base len : Nat) : Prop :=
  ∀ a, ¬(base ≤ a ∧ a < base + len) → memRead m' a = memRead m a

/-! ### The closed forms of the writer rules -/

/-- `Yp(n), Up(n), Vp(n)` of the source the host's registers name (spec/42_matrix.md R176). -/
def State.yuvAt (s : State) (src : RgbTag) (n : Nat) : Yuv :=
  pixelYuv s.cfg.matrix (norm s.cfg s.mem src s.srcAddr.toNat n)

/-- `Yp(n)` -/
def State.yp (s : State) (src : RgbTag) (n : Nat) : Byte := (s.yuvAt src n).y

/-- `Up(n)` -/
def State.up (s : State) (src : RgbTag) (n : Nat) : Byte := (s.yuvAt src n).u

/-- `Vp(n)` -/
def State.vp (s : State) (src : RgbTag) (n : Nat) : Byte := (s.yuvAt src n).v

/-- `(x(2k) + x(2k+1)) >> 1` (spec/43_writers_444_422.md R193). -/
def pairAverage (x : Nat → Byte) (k : Nat) : Nat := ((x (2 * k)).toNat + (x (2 * k + 1)).toNat) / 2

/-- `(x(4g) + ... + x(4g+3)) >> 2` (spec/44_writers_420_411_410.md R217). -/
def fourAverage (x : Nat → Byte) (g : Nat) : Nat :=
  ((x (4 * g)).toNat + (x (4 * g + 1)).toNat + (x (4 * g + 2)).toNat + (x (4 * g + 3)).toNat) / 4

/-- The average of the 2 x 2 block `(i, j)` of an image of width `w` (spec/44_writers_420_411_410.md R211). -/
def block2Average (x : Nat → Byte) (w i j : Nat) : Nat :=
  ((x (2 * i * w + 2 * j)).toNat + (x (2 * i * w + 2 * j + 1)).toNat
    + (x ((2 * i + 1) * w + 2 * j)).toNat + (x ((2 * i + 1) * w + 2 * j + 1)).toNat) / 4

/-- The sum of four horizontally adjacent samples from pixel `n`. -/
def sum4 (x : Nat → Byte) (n : Nat) : Nat :=
  (x n).toNat + (x (n + 1)).toNat + (x (n + 2)).toNat + (x (n + 3)).toNat

/-- The average of the 4 x 4 block `(i, j)` of an image of width `w` (spec/44_writers_420_411_410.md R223). -/
def block4Average (x : Nat → Byte) (w i j : Nat) : Nat :=
  (sum4 x (4 * i * w + 4 * j) + sum4 x ((4 * i + 1) * w + 4 * j)
    + sum4 x ((4 * i + 2) * w + 4 * j) + sum4 x ((4 * i + 3) * w + 4 * j)) / 16

/-- How many chroma groups a target has in an image of `p` pixels (R191, R193, R211, R217, R223). -/
def groupCount (dst : YuvTag) (p : Nat) : Nat :=
  match subsampling dst with
  | .s444 => p
  | .s422 => p / 2
  | .s420 => p / 4
  | .s411 => p / 4
  | .s410 => p / 16

/-! ### The engine left running, and the host's protocol -/

/-- The engine moves `k` times. -/
def State.engineSteps : Nat → State → State
  | 0, s => s
  | k + 1, s => State.engineSteps k s.engineStep

/-- The state with one more input at the head of the inbox. -/
def State.given (s : State) (e : Event) : State := { s with inbox := e :: s.inbox }

/-- A host's read of a register at a word offset returns `v` and changes nothing of the engine's: the value is logged,
and a STATUS read that shows BUSY = 0 ends the lending of buffers (R26, R298, R299). -/
def ReadsAs (s : State) (offset : Nat) (v : Word) : Prop :=
  step (s.given (.regRead .word offset)) =
    .next { s with replies := s.replies ++ [.word v],
                   lent := if offset = 4 ∧ s.status.busy = false then [] else s.lent }

/-- A host's write of `v` to a register at a word offset leads to `t`. -/
def WriteGives (s : State) (offset : Nat) (v : Word) (t : State) : Prop :=
  step (s.given (.regWrite .word offset v)) = .next t

/-- An access to `[a, a + len)` that keeps the protocol of R298: a write touches no lent buffer, a read no lent write
set. -/
def State.mayWrite (s : State) (a len : Nat) : Prop := ∀ b ∈ s.lent, b.touches a len = false

/-- See `State.mayWrite`. -/
def State.mayRead (s : State) (a len : Nat) : Prop := ∀ b ∈ s.lent, overlap a len b.dstBase b.dstLen = false

end Sys2Proof.Machine
end

