-- ==== Sys2Proof/WellFormed.lean ====
section
/-! DEFINITION. When the fields of a command word are those of a legal command (spec/30_encoding.md R92, R97). Written on
the fields' numbers, without the decoder's tag tables, so that the two can be held against each other. -/

namespace Sys2Proof

/-- R92 step 1: every reserved bit is 0. -/
def Fields.reservedZero (f : Fields) : Bool :=
  f.z3 == 0 && f.z2 == 0 && f.z1 == 0

/-- R92 step 2: OP is one of the four operations. -/
def Fields.opLegal (f : Fields) : Bool :=
  decide (f.op.toNat ≤ 3)

/-- R92 step 3: a format field the operation does not use is 0. -/
def Fields.unusedZero (f : Fields) : Bool :=
  (f.op != 0 || (f.fa == 0 && f.fb == 0)) && ((f.op != 1 && f.op != 2) || f.fb == 0)

/-- R92 step 4: the format fields the operation uses hold legal tags of the right family. -/
def Fields.tagsLegal (f : Fields) : Bool :=
  (f.op != 1 || (decide (f.fa.toNat ≤ 4) || (decide (16 ≤ f.fa.toNat) && decide (f.fa.toNat ≤ 30)))) &&
  (f.op != 2 || decide (f.fa.toNat ≤ 4)) &&
  (f.op != 3 || (decide (f.fa.toNat ≤ 4) && decide (16 ≤ f.fb.toNat) && decide (f.fb.toNat ≤ 30)))

/-- The fields are those of one of the 101 legal commands (R97, R100). -/
def Fields.wellFormed (f : Fields) : Bool :=
  f.reservedZero && f.opLegal && f.unusedZero && f.tagsLegal

/-- An instruction is well-formed when the fields of its word are. An instruction has no operand, so every one is
(`Laws.WordRoundTrip`). -/
def Instr.wellFormed (i : Instr) : Bool :=
  i.command.fields.wellFormed

end Sys2Proof
end

