-- ==== Sys2Proof/Certificates/Slice0/Obligations.lean ====
section
/-! DEFINITION. The statements for the provers. Each says which rule of spec/ it formalises. "log <n>" is
notes/assumptions/<n>.md. -/

open Sys2Proof Sys2Proof.Machine

/-! ### Encoding -/

/-- R97, R100: the words that decode are exactly the words of the 101 instructions, each to its own instruction. -/
def Obligations.DecodeExactlyTheEncodedWords : Prop :=
  ∀ (k : Word) (i : Instr), decode k = .ok i ↔ k = encode i

/-- R90, R91, R93: the word of every command as a number, `OP << 16 | FB << 8 | FA`. -/
def Obligations.CommandWordsAsNumbers : Prop :=
  (encode .nop).toNat = 0 ∧
  (∀ t : Tag, (encode (Command.reqbytes t).instr).toNat = 0x10000 + t.number.toNat) ∧
  (∀ src : RgbTag, (encode (Command.normalize src).instr).toNat = 0x20000 + src.number.toNat) ∧
  (∀ (src : RgbTag) (dst : YuvTag),
    (encode (Command.convert src dst).instr).toNat = 0x30000 + 256 * dst.number.toNat + src.number.toNat)

/-- A few words of the table, written out, decode to their instructions; four others are refused by name. -/
def Obligations.SampleWordsDecode : Prop :=
  decodeTableWord 32 0x00000000 = some .nop ∧
  decodeTableWord 32 0x00010018 = some .reqbytesYU12 ∧
  decodeTableWord 32 0x00020003 = some .normalizeRGB444 ∧
  decodeTableWord 32 0x00031D04 = some .convertRGB888XYVU9 ∧
  decode 0x80031900 = .error .reservedBitSet ∧
  decode 0x00040000 = .error .reservedOp ∧
  decode 0x00021000 = .error .unusedFieldSet ∧
  decode 0x00031F00 = .error .badFormatTag

/-- R92: a word written to CMD while IDLE is decoded in the rule's order. The fields are taken from the word as a
number. Steps 1 to 3 refuse with code 1, step 4 with code 2 (a pair outside SUPPORTED_PAIRS included), and every other
word runs the command whose operation and tags the fields are. -/
def Obligations.CommandWordDecodedInOrder : Prop :=
  ∀ (s : State) (k : Word), s.status.busy = false →
    let z3 := k.toNat / 2 ^ 20
    let op := k.toNat / 2 ^ 16 % 16
    let z2 := k.toNat / 2 ^ 13 % 8
    let fb := k.toNat / 2 ^ 8 % 32
    let z1 := k.toNat / 2 ^ 5 % 8
    let fa := k.toNat % 32
    let badWord := z3 ≠ 0 ∨ z2 ≠ 0 ∨ z1 ≠ 0 ∨ 3 < op ∨ (op = 0 ∧ (fa ≠ 0 ∨ fb ≠ 0)) ∨ ((op = 1 ∨ op = 2) ∧ fb ≠ 0)
    let badTag := (op = 1 ∧ ((5 ≤ fa ∧ fa ≤ 15) ∨ fa = 31)) ∨ (op = 2 ∧ 4 < fa) ∨
      (op = 3 ∧ (4 < fa ∨ fb < 16 ∨ fb = 31))
    (badWord → WriteGives s 0 k (refusedWith s k 1)) ∧
    (¬badWord → badTag → WriteGives s 0 k (refusedWith s k 2)) ∧
    (¬badWord → ¬badTag →
      ∃ c : Command, c.op.toNat = op ∧ c.fa.toNat = fa ∧ c.fb.toNat = fb ∧
        (∀ src dst, c = .convert src dst → (src, dst) ∉ s.cfg.supportedPairs →
          WriteGives s 0 k (refusedWith s k 2)) ∧
        step (s.given (.regWrite .word 0 k)) = exec c.instr s)

/-! ### The step -/

/-- R25, R92 step 5: while IDLE, a CMD write of an instruction's word at the head of the inbox makes the step the
instruction's meaning on the state with that input taken; so does `withFetchWord`. The model's own form of a run: log 1. -/
def Obligations.StepRunsDecodedInstruction : Prop :=
  ∀ (s : State) (k : Word) (i : Instr), s.status.busy = false → i.wellFormed = true →
    (decode k = .ok i → step (s.given (.regWrite .word 0 k)) = exec i s) ∧
    step (s.withFetchWord 32 (encode i).toNat) = exec i s

/-- R269, R276: no instruction stops the machine: in every state each gives a next state. -/
def Obligations.NoCommandStops : Prop :=
  ∀ (i : Instr) (s : State), ∃ t, exec i s = .next t

/-- R26, R301: after a word is issued exactly one of BUSY, DONE, ERR is set, and ERRCODE is not 0 exactly with ERR. A
command that runs within the CMD write leaves DONE or ERR. -/
def Obligations.IssueSetsExactlyOneFlag : Prop :=
  ∀ (s : State) (k : Word), s.status.busy = false →
    ((cmdIssue k s).status = { busy := true, done := false, err := false, errCode := 0 } ∨
      (cmdIssue k s).status = .doneOnly ∨
      ∃ e : ErrorCode, (cmdIssue k s).status = .errOnly e.number) ∧
    ∃ t, cmdWrite k s = .next t ∧ (t.status = .doneOnly ∨ ∃ e : ErrorCode, t.status = .errOnly e.number)

/-- R32: the engine leaves IDLE only by an issued NORMALIZE or CONVERT that passes its checks. (In this model a command
is seen BUSY only when the host's next inputs overlap it: log 6.) -/
def Obligations.OnlyAcceptedCommandsLeaveIdle : Prop :=
  ∀ (s t : State), s.status.busy = false → step s = .next t → t.status.busy = true →
    ∃ (k : Word) (rest : List Event) (c : Command), s.inbox = .cmdIssue k :: rest ∧ decode k = .ok c.instr ∧
      ((∃ src, c = .normalize src) ∨ ∃ src dst, c = .convert src dst) ∧
      issueCheck c s.cfg (s.latchOf k) = none

/-- R26, R32, R33: a NORMALIZE or CONVERT that passes its checks, issued and left running, latches its operands, sets
BUSY alone and starts at pixel 0; nothing of the spec's state changes otherwise. -/
def Obligations.AcceptedCommandGoesBusy : Prop :=
  ∀ (s : State) (c : Command), s.status.busy = false →
    ((∃ src, c = .normalize src) ∨ ∃ src dst, c = .convert src dst) →
    issueCheck c s.cfg (s.latchOf c.word) = none →
    step (s.given (.cmdIssue c.word)) =
      .next { s with latched := s.latchOf c.word,
                     status := { busy := true, done := false, err := false, errCode := 0 },
                     pixel := 0, before := s.mem, disturbed := false,
                     lent := lendingOf c (s.latchOf c.word) :: s.lent }

/-! ### Registers -/

/-- R26: the bits of STATUS. -/
def Obligations.StatusWordLayout : Prop :=
  ∀ t : Status, t.word.toNat = t.busy.toNat + 2 * t.done.toNat + 4 * t.err.toNat + 256 * t.errCode.toNat

/-- R21, R22, R23, R25, R28: what every aligned word offset reads as. -/
def Obligations.RegisterReads : Prop :=
  ∀ s : State,
    ReadsAs s 0x00 0 ∧ ReadsAs s 0x04 s.status.word ∧
    ReadsAs s 0x08 (BitVec.ofNat 32 s.width.toNat) ∧ ReadsAs s 0x0C (BitVec.ofNat 32 s.height.toNat) ∧
    ReadsAs s 0x10 s.srcAddr ∧ ReadsAs s 0x14 s.canAddr ∧ ReadsAs s 0x18 s.dstAddr ∧ ReadsAs s 0x1C s.dstLen ∧
    ReadsAs s 0x20 (BitVec.ofNat 32 s.result.toNat) ∧ ReadsAs s 0x24 (BitVec.ofNat 32 (s.result.toNat / 2 ^ 32)) ∧
    ReadsAs s 0x28 s.canPtr ∧ ∀ offset, 0x2C ≤ offset → offset % 4 = 0 → ReadsAs s offset 0

/-- R21, R22, R23: what a host write to each aligned word offset but CMD does while IDLE: WIDTH and HEIGHT keep the low
`DIM_BITS` bits, the addresses the low `AW` bits (R4; at this hardware's 16 and 32 that is bits 15:0 and the whole word),
DST_LEN the whole word; read-only and reserved offsets ignore it. -/
def Obligations.RegisterWrites : Prop :=
  ∀ (s : State) (v : Word), s.status.busy = false →
    let dim := BitVec.ofNat 16 (v.toNat % 2 ^ s.cfg.dimBits.val)
    let addr := BitVec.ofNat 32 (v.toNat % 2 ^ s.cfg.aw.val)
    WriteGives s 0x08 v { s with width := dim } ∧ WriteGives s 0x0C v { s with height := dim } ∧
    (s.cfg.dimBits = 16 → dim = BitVec.ofNat 16 v.toNat) ∧
    WriteGives s 0x10 v { s with srcAddr := addr } ∧ WriteGives s 0x14 v { s with canAddr := addr } ∧
    WriteGives s 0x18 v { s with dstAddr := addr } ∧ (s.cfg.aw = 32 → addr = v) ∧
    WriteGives s 0x1C v { s with dstLen := v } ∧
    WriteGives s 0x04 v s ∧ WriteGives s 0x20 v s ∧ WriteGives s 0x24 v s ∧ WriteGives s 0x28 v s ∧
    ∀ offset, 0x2C ≤ offset → offset % 4 = 0 → WriteGives s offset v s

/-- R25, R299: while BUSY a host write to any register, CMD included, changes nothing, and a read returns the register
and changes nothing but the log of replies; STATUS reads BUSY = 1. -/
def Obligations.RegistersWhileBusy : Prop :=
  ∀ (s : State) (offset : Nat) (v : Word), s.status.busy = true → offset % 4 = 0 →
    WriteGives s offset v s ∧ step (s.given (.cmdIssue v)) = .next s ∧
    step (s.given (.regRead .word offset)) =
      .next { s with replies := s.replies ++ [.word (s.readReg offset)] } ∧
    (s.readReg 4).toNat % 2 = 1

/-- R31: a narrower or misaligned register access is refused; an aligned word access is not. -/
def Obligations.NarrowOrMisalignedAccessRefused : Prop :=
  ∀ (s : State) (size : AccessSize) (offset : Nat) (v : Word),
    (size ≠ .word → step (s.given (.regRead size offset)) = .refused .narrowRegisterAccess ∧
      step (s.given (.regWrite size offset v)) = .refused .narrowRegisterAccess) ∧
    (size = .word → offset % 4 ≠ 0 → step (s.given (.regRead size offset)) = .refused .misalignedRegisterAccess ∧
      step (s.given (.regWrite size offset v)) = .refused .misalignedRegisterAccess) ∧
    (size = .word → offset % 4 = 0 → (∃ t, step (s.given (.regRead size offset)) = .next t) ∧
      ∃ t, step (s.given (.regWrite size offset v)) = .next t)

/-- R21, R23, R38: no step changes the configuration, and the operand registers change only by a host's register write
or by reset; a CMD write changes none of them. -/
def Obligations.OperandRegistersAreTheHosts : Prop :=
  ∀ (s t : State), step s = .next t → t.cfg = s.cfg ∧
    ((∀ e rest, s.inbox = e :: rest →
        e ≠ .reset ∧ ∀ size offset v, e = .regWrite size offset v → offset = 0) →
      t.width = s.width ∧ t.height = s.height ∧ t.srcAddr = s.srcAddr ∧ t.canAddr = s.canAddr ∧
      t.dstAddr = s.dstAddr ∧ t.dstLen = s.dstLen)

/-- R28, R29: RESULT is changed only by a REQBYTES that completes, CAN_PTR only by a NORMALIZE that completes; a refused
command changes neither, nor the memory, nor the accumulators (R262). -/
def Obligations.ResultRegistersWrittenOnlyByTheirCommand : Prop :=
  ∀ (i : Instr) (s t : State), s.status.busy = false → exec i s = .next t →
    ((∀ g, i.command ≠ .reqbytes g) → t.result = s.result) ∧
    ((∀ src, i.command ≠ .normalize src) → t.canPtr = s.canPtr) ∧
    (t.status.err = true →
      t.result = s.result ∧ t.canPtr = s.canPtr ∧ t.mem = s.mem ∧ t.accU = s.accU ∧ t.accV = s.accV)

/-! ### NOP and REQBYTES -/

/-- R251: NOP is the word 0; issued while IDLE it latches, clears ERR and ERRCODE and sets DONE, and nothing else
changes. Every other word of operation 0 is refused with E_OP. -/
def Obligations.NopSetsDone : Prop :=
  encode .nop = 0 ∧
  (∀ s : State, s.status.busy = false → exec .nop s = .next { s with latched := s.latchOf 0, status := .doneOnly }) ∧
  ∀ k : Word, k ≠ 0 → k.toNat / 2 ^ 16 % 16 = 0 → ∃ e, decode k = .error e ∧ decodeErrorCode e = .eOp

/-- R141: REQBYTES of every tag, issued while IDLE: where the pixel count is divisible RESULT is the size, no bit lost,
and DONE; else E_DIM and RESULT as before. Nothing else changes either way. Every other word of operation 1 is refused:
E_OP where a reserved bit or FB is not 0, else E_FMT. -/
def Obligations.ReqbytesWritesResult : Prop :=
  (∀ k : Word, k.toNat / 2 ^ 16 % 16 = 1 → (∀ g : Tag, k ≠ encode (Command.reqbytes g).instr) →
    ∃ e, decode k = .error e ∧
      decodeErrorCode e = if k.toNat / 2 ^ 20 ≠ 0 ∨ k.toNat / 2 ^ 5 % 2 ^ 11 ≠ 0 then .eOp else .eFmt) ∧
  ∀ (g : Tag) (s : State), s.status.busy = false →
    (encode (Command.reqbytes g).instr).toNat = 0x10000 + g.number.toNat ∧
    (s.pixels % divisor g = 0 → ∃ r : BitVec 34, r.toNat = requiredBytes g s.pixels ∧
      exec (Command.reqbytes g).instr s =
        .next { s with latched := s.latchOf (encode (Command.reqbytes g).instr), result := r, status := .doneOnly }) ∧
    (s.pixels % divisor g ≠ 0 →
      exec (Command.reqbytes g).instr s = .next (refusedWith s (encode (Command.reqbytes g).instr) 3))

/-- R121 to R125: size, tag, divisor and REQBYTES word of the RGB-family tags; 4 * 65535 * 65535 bounds every size. -/
def Obligations.RgbSizeRules : Prop :=
  (∀ p, requiredBytes (.rgb .rgb888) p = 3 * p ∧ requiredBytes (.rgb .rgb565) p = 2 * p ∧
    requiredBytes (.rgb .rgb555) p = 2 * p ∧ requiredBytes (.rgb .rgb444) p = (3 * p + 1) / 2 ∧
    requiredBytes (.rgb .rgb888x) p = 4 * p) ∧
  (∀ t : RgbTag, divisor (.rgb t) = 1) ∧
  RgbTag.all.map (fun t => (t.number.toNat, (encode (Command.reqbytes (.rgb t)).instr).toNat)) =
    [(0, 0x00010000), (1, 0x00010001), (2, 0x00010002), (3, 0x00010003), (4, 0x00010004)] ∧
  (∀ (g : Tag) (w h : Nat), w ≤ 65535 → h ≤ 65535 → requiredBytes g (w * h) ≤ 17179344900) ∧
  requiredBytes (.rgb .rgb888x) (65535 * 65535) = 17179344900

/-- R126 to R132: size, tag, divisor and REQBYTES word of the 4:4:4 and 4:2:2 tags. -/
def Obligations.FullAndPairSizeRules : Prop :=
  (∀ p, requiredBytes (.yuv .nv24) p = 3 * p ∧ requiredBytes (.yuv .nv42) p = 3 * p ∧
    requiredBytes (.yuv .yuy2) p = 2 * p ∧ requiredBytes (.yuv .yvyu) p = 2 * p ∧
    requiredBytes (.yuv .uyvy) p = 2 * p ∧ requiredBytes (.yuv .vyuy) p = 2 * p ∧
    requiredBytes (.yuv .p422) p = 2 * p) ∧
  [YuvTag.nv24, .nv42, .yuy2, .yvyu, .uyvy, .vyuy, .p422].map
      (fun t => (t.number.toNat, divisor (.yuv t), (encode (Command.reqbytes (.yuv t)).instr).toNat)) =
    [(0x10, 1, 0x00010010), (0x11, 1, 0x00010011), (0x12, 2, 0x00010012), (0x13, 2, 0x00010013),
     (0x14, 2, 0x00010014), (0x15, 2, 0x00010015), (0x16, 2, 0x00010016)]

/-- R133 to R140: size, tag, divisor and REQBYTES word of the 4:2:0, 4:1:1 and 4:1:0 tags; the width and height
condition is CONVERT's alone: REQBYTES completes on every width and height whose product is divisible, and CONVERT is
refused with E_DIM where the width or height does not fit the blocks. -/
def Obligations.BlockSizeRules : Prop :=
  (∀ p, requiredBytes (.yuv .yv12) p = p + p / 2 ∧ requiredBytes (.yuv .yu12) p = p + p / 2 ∧
    requiredBytes (.yuv .nv12) p = p + p / 2 ∧ requiredBytes (.yuv .nv21) p = p + p / 2 ∧
    requiredBytes (.yuv .y41p) p = p + p / 2 ∧ requiredBytes (.yuv .p411) p = p + p / 2 ∧
    requiredBytes (.yuv .yvu9) p = p + p / 8 ∧ requiredBytes (.yuv .yuv9) p = p + p / 8) ∧
  [YuvTag.yv12, .yu12, .nv12, .nv21, .y41p, .p411, .yvu9, .yuv9].map
      (fun t => (t.number.toNat, divisor (.yuv t), (encode (Command.reqbytes (.yuv t)).instr).toNat)) =
    [(0x17, 4, 0x00010017), (0x18, 4, 0x00010018), (0x19, 4, 0x00010019), (0x1A, 4, 0x0001001A),
     (0x1B, 8, 0x0001001B), (0x1C, 4, 0x0001001C), (0x1D, 16, 0x0001001D), (0x1E, 16, 0x0001001E)] ∧
  ∀ (dst : YuvTag) (src : RgbTag) (s : State), s.status.busy = false →
    dst ∈ [YuvTag.yv12, .yu12, .nv12, .nv21, .yvu9, .yuv9] →
    let d := if dst ∈ [YuvTag.yvu9, .yuv9] then 4 else 2
    (s.pixels % divisor (.yuv dst) = 0 →
      ∃ t, exec (Command.reqbytes (.yuv dst)).instr s = .next t ∧ t.status = .doneOnly) ∧
    ((src, dst) ∈ s.cfg.supportedPairs → s.width.toNat % d ≠ 0 ∨ s.height.toNat % d ≠ 0 →
      exec (Command.convert src dst).instr s =
        .next (refusedWith s (encode (Command.convert src dst).instr) 3))

/-! ### NORMALIZE -/

/-- R152: `Norm(RGB565, n)` on the two bytes of the pixel, the size of the source range, and the rule's values. -/
def Obligations.Rgb565UnpackRule : Prop :=
  (∀ (cfg : Config) (m : List Host.Cell) (s n : Nat),
    let p := (memRead m (s + 2 * n)).toNat + 256 * (memRead m (s + 2 * n + 1)).toNat
    (norm cfg m .rgb565 s n).r.toNat = p / 2048 * 8 ∧ (norm cfg m .rgb565 s n).g.toNat = p / 32 % 64 * 4 ∧
    (norm cfg m .rgb565 s n).b.toNat = p % 32 * 8 ∧ rgbBytes .rgb565 n = 2 * n) ∧
  (∀ p : Half, (unpack565 p).r.toNat = (p.toNat &&& 0xF800) / 2 ^ 8 ∧ (unpack565 p).g.toNat = (p.toNat &&& 0x07E0) / 2 ^ 3 ∧
    (unpack565 p).b.toNat = (p.toNat &&& 0x001F) * 2 ^ 3) ∧
  unpack565 0xFFFF = { b := 248, g := 252, r := 248 } ∧ unpack565 0xF800 = { b := 0, g := 0, r := 248 } ∧
  unpack565 0x07E0 = { b := 0, g := 252, r := 0 } ∧ unpack565 0x001F = { b := 248, g := 0, r := 0 } ∧
  unpack565 0x1234 = { b := 160, g := 68, r := 16 } ∧ unpack565 0x8410 = { b := 128, g := 128, r := 128 }

/-- R151, R153, R154, R155: `Norm` of the other four formats on the bytes of the source, with the size of the source
range. RGB555 and RGB444 are at the default layouts, which the spec marks as its own (R153 "from general knowledge, not
in source", R154 decision D14; log 7); so is the byte order it derives for RGB888X (R155). -/
def Obligations.OtherUnpackRules : Prop :=
  ∀ (cfg : Config) (m : List Host.Cell) (s n : Nat),
    let byte := fun a => (memRead m a).toNat
    let p := byte (s + 2 * n) + 256 * byte (s + 2 * n + 1)
    let b0 := byte (s + 3 * (n / 2))
    let b1 := byte (s + 3 * (n / 2) + 1)
    let b2 := byte (s + 3 * (n / 2) + 2)
    (norm cfg m .rgb888 s n =
      { b := memRead m (s + 3 * n), g := memRead m (s + 3 * n + 1), r := memRead m (s + 3 * n + 2) } ∧
      rgbBytes .rgb888 n = 3 * n) ∧
    (cfg.rgb555 = .x1r5g5b5 →
      (norm cfg m .rgb555 s n).r.toNat = p / 1024 % 32 * 8 ∧ (norm cfg m .rgb555 s n).g.toNat = p / 32 % 32 * 8 ∧
      (norm cfg m .rgb555 s n).b.toNat = p % 32 * 8 ∧ rgbBytes .rgb555 n = 2 * n) ∧
    (cfg.rgb444 = .standard → rgbBytes .rgb444 n = (3 * n + 1) / 2 ∧
      (n % 2 = 0 → (norm cfg m .rgb444 s n).b.toNat = b0 % 16 * 16 ∧
        (norm cfg m .rgb444 s n).g.toNat = b0 / 16 * 16 ∧ (norm cfg m .rgb444 s n).r.toNat = b1 % 16 * 16) ∧
      (n % 2 = 1 → (norm cfg m .rgb444 s n).b.toNat = b1 / 16 * 16 ∧
        (norm cfg m .rgb444 s n).g.toNat = b2 % 16 * 16 ∧ (norm cfg m .rgb444 s n).r.toNat = b2 / 16 * 16)) ∧
    (norm cfg m .rgb888x s n =
      { b := memRead m (s + 4 * n), g := memRead m (s + 4 * n + 1), r := memRead m (s + 4 * n + 2) } ∧
      rgbBytes .rgb888x n = 4 * n)

/-- R156 for RGB888: with the source inside the memory the command completes with CAN_PTR = S; no byte of memory and no
accumulator changes, and CAN_ADDR does not matter. -/
def Obligations.NormalizeRgb888AliasesSource : Prop :=
  ∀ s : State, s.status.busy = false → s.Holds s.srcAddr.toNat (3 * s.pixels) →
    ∃ t, exec .normalizeRGB888 s = .next t ∧ t.canPtr = s.srcAddr ∧ t.mem = s.mem ∧ t.accU = s.accU ∧
      t.accV = s.accV ∧ CompletedFrame s t (.normalize .rgb888)

/-- R156 for the four packed formats: the command completes with CAN_PTR = C; pixel `n` stands at `C + 3n` as B, G, R, as
`Norm` of the source as it was at issue; every byte outside `[C, C + 3P)` is as before. -/
def Obligations.NormalizeWritesCanonicalArray : Prop :=
  ∀ (src : RgbTag) (s : State), src ≠ .rgb888 → NormalizeReady s src →
    ∃ t, exec (Command.normalize src).instr s = .next t ∧ t.canPtr = s.canAddr ∧
      (∀ n, n < s.pixels →
        memRead t.mem (s.canAddr.toNat + 3 * n) = (norm s.cfg s.mem src s.srcAddr.toNat n).b ∧
        memRead t.mem (s.canAddr.toNat + 3 * n + 1) = (norm s.cfg s.mem src s.srcAddr.toNat n).g ∧
        memRead t.mem (s.canAddr.toNat + 3 * n + 2) = (norm s.cfg s.mem src s.srcAddr.toNat n).r) ∧
      SameOutside s.mem t.mem s.canAddr.toNat (3 * s.pixels) ∧ t.accU = s.accU ∧ t.accV = s.accV ∧
      CompletedFrame s t (.normalize src)

/-- R156, R157, R263, R267, R268: when NORMALIZE is refused, and with which code. -/
def Obligations.NormalizeRefusals : Prop :=
  ∀ (src : RgbTag) (s : State), s.status.busy = false →
    let refused := fun code =>
      exec (Command.normalize src).instr s = .next (refusedWith s (encode (Command.normalize src).instr) code)
    let ranges := s.Holds s.srcAddr.toNat (rgbBytes src s.pixels) ∧
      (src = .rgb888 ∨ s.Holds s.canAddr.toNat (3 * s.pixels))
    (¬ranges → refused 5) ∧
    (ranges → src ≠ .rgb888 →
      ¬Apart s.srcAddr.toNat (rgbBytes src s.pixels) s.canAddr.toNat (3 * s.pixels) → refused 6)

/-! ### The colour matrix -/

/-- R170, R171: one row is the floor of the exact sum over 256, offset and clamped, a number of 8 bits; the clamp with the
rule's values. -/
def Obligations.ConvertFunctionAndClamp : Prop :=
  (∀ (w : MatrixRow) (c1 c2 c3 : Byte), convertRow w c1 c2 c3 =
      clamp ((w.a * c1.toNat + w.b * c2.toNat + w.c * c3.toNat + w.d) / 256 + w.e) ∧
    0 ≤ convertRow w c1 c2 c3 ∧ convertRow w c1 c2 c3 ≤ 255) ∧
  (∀ (t : Matrix) (x : Pixel), ((pixelYuv t x).y.toNat : Int) = convertRow t.y x.r x.g x.b ∧
    ((pixelYuv t x).u.toNat : Int) = convertRow t.u x.r x.g x.b ∧
    ((pixelYuv t x).v.toNat : Int) = convertRow t.v x.r x.g x.b) ∧
  (∀ x : Int, x < 0 → clamp x = 0) ∧ (∀ x : Int, 255 < x → clamp x = 255) ∧
  (∀ x : Int, 0 ≤ x → x ≤ 255 → clamp x = x) ∧ (∀ x y : Int, x ≤ y → clamp x ≤ clamp y) ∧
  clamp (-5) = 0 ∧ clamp 260 = 255 ∧ clamp 130 = 130 ∧ clamp 0 = 0 ∧ clamp 255 = 255 ∧ clamp (-1) = 0 ∧
  clamp 256 = 255

/-- R172 to R175: with the spec's table (the one at reset) the rows are the rules' formulas, the clamp never acts, the
ranges are 16..235 and 16..240 and reached, and every grey has chroma 128. The coefficients b and c of the table are
marked in the spec "from general knowledge, not in source" (log 7), the ranges "derived". -/
def Obligations.MatrixRows : Prop :=
  State.reset.cfg.matrix = { y := ⟨66, 129, 25, 128, 16⟩, u := ⟨-38, -74, 112, 128, 128⟩,
                             v := ⟨112, -94, -18, 128, 128⟩ } ∧
  (∀ r g b : Byte,
    let y := convertRow Matrix.bt601.y r g b
    let u := convertRow Matrix.bt601.u r g b
    let v := convertRow Matrix.bt601.v r g b
    y = (66 * r.toNat + 129 * g.toNat + 25 * b.toNat + 128 : Int) / 256 + 16 ∧ 16 ≤ y ∧ y ≤ 235 ∧
    u = (-38 * r.toNat - 74 * g.toNat + 112 * b.toNat + 128 : Int) / 256 + 128 ∧ 16 ≤ u ∧ u ≤ 240 ∧
    v = (112 * r.toNat - 94 * g.toNat - 18 * b.toNat + 128 : Int) / 256 + 128 ∧ 16 ≤ v ∧ v ≤ 240 ∧
    (r = g → g = b → u = 128 ∧ v = 128)) ∧
  convertRow Matrix.bt601.y 0 0 0 = 16 ∧ convertRow Matrix.bt601.y 255 255 255 = 235 ∧
  convertRow Matrix.bt601.u 255 255 0 = 16 ∧ convertRow Matrix.bt601.u 0 0 255 = 240 ∧
  convertRow Matrix.bt601.v 0 255 255 = 16 ∧ convertRow Matrix.bt601.v 255 0 0 = 240

/-! ### CONVERT: the byte maps -/

/-- R191, R192: CONVERT to NV24 and NV42 completes; luma plane, then one chroma pair per pixel, U first for NV24 and V
first for NV42; every other byte as before; the accumulators are not used. -/
def Obligations.ConvertTo444ByteMap : Prop :=
  ∀ (src : RgbTag) (dst : YuvTag) (s : State), dst ∈ [YuvTag.nv24, .nv42] → ConvertReady s src dst →
    ∃ t, exec (Command.convert src dst).instr s = .next t ∧ CompletedFrame s t (.convert src dst) ∧
      t.canPtr = s.canPtr ∧ t.accU = s.accU ∧ t.accV = s.accV ∧
      SameOutside s.mem t.mem s.dstAddr.toNat (3 * s.pixels) ∧
      ∀ n, n < s.pixels →
        memRead t.mem (s.dstAddr.toNat + n) = s.yp src n ∧
        memRead t.mem (s.dstAddr.toNat + s.pixels + 2 * n) = (if dst = .nv24 then s.up src n else s.vp src n) ∧
        memRead t.mem (s.dstAddr.toNat + s.pixels + 2 * n + 1) = (if dst = .nv24 then s.vp src n else s.up src n)

/-- R194, R196 (and R193): CONVERT to YUY2 and UYVY completes; each pair of pixels is four bytes, Y U Y V or U Y V Y, each
chroma the halved sum; every other byte as before. The words are the rules'. -/
def Obligations.ConvertToYuy2AndUyvy : Prop :=
  (∀ src : RgbTag, [YuvTag.yuy2, .uyvy].map (fun dst => (encode (Command.convert src dst).instr).toNat) =
    [0x31200, 0x31400].map (· + src.number.toNat)) ∧
  ∀ (src : RgbTag) (dst : YuvTag) (s : State), dst ∈ [YuvTag.yuy2, .uyvy] → ConvertReady s src dst →
    ∃ t, exec (Command.convert src dst).instr s = .next t ∧ CompletedFrame s t (.convert src dst) ∧
      t.canPtr = s.canPtr ∧ SameOutside s.mem t.mem s.dstAddr.toNat (2 * s.pixels) ∧
      ∀ k, k < s.pixels / 2 →
        let y0 := (s.yp src (2 * k)).toNat
        let y1 := (s.yp src (2 * k + 1)).toNat
        let u := pairAverage (s.up src) k
        let v := pairAverage (s.vp src) k
        let at_ := fun j => (memRead t.mem (s.dstAddr.toNat + 4 * k + j)).toNat
        (dst = .yuy2 → at_ 0 = y0 ∧ at_ 1 = u ∧ at_ 2 = y1 ∧ at_ 3 = v) ∧
        (dst = .uyvy → at_ 0 = u ∧ at_ 1 = y0 ∧ at_ 2 = v ∧ at_ 3 = y1)

/-- R195, R197 (and R193): CONVERT to YVYU and VYUY completes; each pair of pixels is four bytes, Y V Y U or V Y U Y, each
chroma the halved sum; every other byte as before. The spec marks these two orders as its own reading of the tags'
letters ("from general knowledge, not in source", decision D16). -/
def Obligations.ConvertToYvyuAndVyuy : Prop :=
  (∀ src : RgbTag, [YuvTag.yvyu, .vyuy].map (fun dst => (encode (Command.convert src dst).instr).toNat) =
    [0x31300, 0x31500].map (· + src.number.toNat)) ∧
  ∀ (src : RgbTag) (dst : YuvTag) (s : State), dst ∈ [YuvTag.yvyu, .vyuy] → ConvertReady s src dst →
    ∃ t, exec (Command.convert src dst).instr s = .next t ∧ CompletedFrame s t (.convert src dst) ∧
      t.canPtr = s.canPtr ∧ SameOutside s.mem t.mem s.dstAddr.toNat (2 * s.pixels) ∧
      ∀ k, k < s.pixels / 2 →
        let y0 := (s.yp src (2 * k)).toNat
        let y1 := (s.yp src (2 * k + 1)).toNat
        let u := pairAverage (s.up src) k
        let v := pairAverage (s.vp src) k
        let at_ := fun j => (memRead t.mem (s.dstAddr.toNat + 4 * k + j)).toNat
        (dst = .yvyu → at_ 0 = y0 ∧ at_ 1 = v ∧ at_ 2 = y1 ∧ at_ 3 = u) ∧
        (dst = .vyuy → at_ 0 = v ∧ at_ 1 = y0 ∧ at_ 2 = u ∧ at_ 3 = y1)

/-- R198 (and R193): CONVERT to P422 completes; planes Y, U, V at 0, `P`, `P + P/2`; every other byte as before. -/
def Obligations.ConvertToPlanar422ByteMap : Prop :=
  ∀ (src : RgbTag) (s : State), ConvertReady s src .p422 →
    ∃ t, exec (Command.convert src .p422).instr s = .next t ∧ CompletedFrame s t (.convert src .p422) ∧
      t.canPtr = s.canPtr ∧ SameOutside s.mem t.mem s.dstAddr.toNat (2 * s.pixels) ∧
      (∀ n, n < s.pixels → memRead t.mem (s.dstAddr.toNat + n) = s.yp src n) ∧
      ∀ k, k < s.pixels / 2 →
        (memRead t.mem (s.dstAddr.toNat + s.pixels + k)).toNat = pairAverage (s.up src) k ∧
        (memRead t.mem (s.dstAddr.toNat + s.pixels + s.pixels / 2 + k)).toNat = pairAverage (s.vp src) k

/-- R212, R213 (and R211): CONVERT to YV12 and YU12 completes; three planes; block `(i, j)` at `idx = i * (W/2) + j`, each
chroma the sum of the block's four values shifted right by 2; every other byte as before. The words are the rules'. -/
def Obligations.ConvertToPlanar420ByteMap : Prop :=
  (∀ src : RgbTag, [YuvTag.yv12, .yu12].map (fun dst => (encode (Command.convert src dst).instr).toNat) =
    [0x31700, 0x31800].map (· + src.number.toNat)) ∧
  ∀ (src : RgbTag) (dst : YuvTag) (s : State), dst ∈ [YuvTag.yv12, .yu12] → ConvertReady s src dst →
    ∃ t, exec (Command.convert src dst).instr s = .next t ∧ CompletedFrame s t (.convert src dst) ∧
      t.canPtr = s.canPtr ∧ SameOutside s.mem t.mem s.dstAddr.toNat (s.pixels + s.pixels / 2) ∧
      (∀ n, n < s.pixels → memRead t.mem (s.dstAddr.toNat + n) = s.yp src n) ∧
      ∀ i j, i < s.height.toNat / 2 → j < s.width.toNat / 2 →
        let idx := i * (s.width.toNat / 2) + j
        let u := block2Average (s.up src) s.width.toNat i j
        let v := block2Average (s.vp src) s.width.toNat i j
        let p := s.pixels
        let at_ := fun o => (memRead t.mem (s.dstAddr.toNat + o)).toNat
        (dst = .yv12 → at_ (p + idx) = v ∧ at_ (p + p / 4 + idx) = u) ∧
        (dst = .yu12 → at_ (p + idx) = u ∧ at_ (p + p / 4 + idx) = v)

/-- R214, R215 (and R211): CONVERT to NV12 and NV21 completes; luma plane, then one chroma pair per block, U first for NV12
and V first for NV21; every other byte as before. The spec marks these two orders as its own ("from general knowledge,
not in source", decision D15). -/
def Obligations.ConvertToSemiPlanar420ByteMap : Prop :=
  (∀ src : RgbTag, [YuvTag.nv12, .nv21].map (fun dst => (encode (Command.convert src dst).instr).toNat) =
    [0x31900, 0x31A00].map (· + src.number.toNat)) ∧
  ∀ (src : RgbTag) (dst : YuvTag) (s : State), dst ∈ [YuvTag.nv12, .nv21] → ConvertReady s src dst →
    ∃ t, exec (Command.convert src dst).instr s = .next t ∧ CompletedFrame s t (.convert src dst) ∧
      t.canPtr = s.canPtr ∧ SameOutside s.mem t.mem s.dstAddr.toNat (s.pixels + s.pixels / 2) ∧
      (∀ n, n < s.pixels → memRead t.mem (s.dstAddr.toNat + n) = s.yp src n) ∧
      ∀ i j, i < s.height.toNat / 2 → j < s.width.toNat / 2 →
        let idx := i * (s.width.toNat / 2) + j
        let u := block2Average (s.up src) s.width.toNat i j
        let v := block2Average (s.vp src) s.width.toNat i j
        let p := s.pixels
        let at_ := fun o => (memRead t.mem (s.dstAddr.toNat + o)).toNat
        (dst = .nv12 → at_ (p + 2 * idx) = u ∧ at_ (p + 2 * idx + 1) = v) ∧
        (dst = .nv21 → at_ (p + 2 * idx) = v ∧ at_ (p + 2 * idx + 1) = u)

/-- R218, R219 (and R217): CONVERT to Y41P and P411 completes; Y41P is the 12-byte macro-block of eight pixels, P411 three
planes; each chroma the sum of four consecutive values shifted right by 2; every other byte as before. The spec marks
P411's plane order as its own (decision D17). -/
def Obligations.ConvertTo411ByteMap : Prop :=
  ∀ (src : RgbTag) (dst : YuvTag) (s : State), dst ∈ [YuvTag.y41p, .p411] → ConvertReady s src dst →
    ∃ t, exec (Command.convert src dst).instr s = .next t ∧ CompletedFrame s t (.convert src dst) ∧
      t.canPtr = s.canPtr ∧ SameOutside s.mem t.mem s.dstAddr.toNat (s.pixels + s.pixels / 2) ∧
      let at_ := fun o => (memRead t.mem (s.dstAddr.toNat + o)).toNat
      let y := fun n => (s.yp src n).toNat
      let u := fourAverage (s.up src)
      let v := fourAverage (s.vp src)
      (dst = .y41p → ∀ m, m < s.pixels / 8 →
        at_ (12 * m) = u (2 * m) ∧ at_ (12 * m + 1) = y (8 * m) ∧ at_ (12 * m + 2) = v (2 * m) ∧
        at_ (12 * m + 3) = y (8 * m + 1) ∧ at_ (12 * m + 4) = u (2 * m + 1) ∧ at_ (12 * m + 5) = y (8 * m + 2) ∧
        at_ (12 * m + 6) = v (2 * m + 1) ∧ at_ (12 * m + 7) = y (8 * m + 3) ∧ at_ (12 * m + 8) = y (8 * m + 4) ∧
        at_ (12 * m + 9) = y (8 * m + 5) ∧ at_ (12 * m + 10) = y (8 * m + 6) ∧ at_ (12 * m + 11) = y (8 * m + 7)) ∧
      (dst = .p411 → (∀ n, n < s.pixels → at_ n = y n) ∧
        ∀ g, g < s.pixels / 4 → at_ (s.pixels + g) = u g ∧ at_ (s.pixels + s.pixels / 4 + g) = v g)

/-- R224, R225 (and R223): CONVERT to the 4:1:0 targets completes; luma plane; block `(i, j)` at `idx = i * (W/4) + j`,
each chroma the sum of the block's sixteen values shifted right by 4; every other byte as before. The words are the
rules'. The spec marks the plane orders as its own ("from general knowledge, not in source", decision D18). -/
def Obligations.ConvertTo410ByteMap : Prop :=
  (∀ src : RgbTag, [YuvTag.yvu9, .yuv9].map (fun dst => (encode (Command.convert src dst).instr).toNat) =
    [0x31D00, 0x31E00].map (· + src.number.toNat)) ∧
  ∀ (src : RgbTag) (dst : YuvTag) (s : State), dst ∈ [YuvTag.yvu9, .yuv9] → ConvertReady s src dst →
    ∃ t, exec (Command.convert src dst).instr s = .next t ∧ CompletedFrame s t (.convert src dst) ∧
      t.canPtr = s.canPtr ∧ SameOutside s.mem t.mem s.dstAddr.toNat (s.pixels + s.pixels / 8) ∧
      (∀ n, n < s.pixels → memRead t.mem (s.dstAddr.toNat + n) = s.yp src n) ∧
      ∀ i j, i < s.height.toNat / 4 → j < s.width.toNat / 4 →
        let idx := i * (s.width.toNat / 4) + j
        let u := block4Average (s.up src) s.width.toNat i j
        let v := block4Average (s.vp src) s.width.toNat i j
        let p := s.pixels
        let at_ := fun o => (memRead t.mem (s.dstAddr.toNat + o)).toNat
        (dst = .yvu9 → at_ (p + idx) = v ∧ at_ (p + p / 16 + idx) = u) ∧
        (dst = .yuv9 → at_ (p + idx) = u ∧ at_ (p + p / 16 + idx) = v)

/-- R246 (and R36): what one pixel of a CONVERT does to the accumulators and the memory. The entry of its group is seeded
by the group's first pixel and added to by the others, no other entry changes. The luma byte is stored. A pixel that is
not its group's last changes no other byte; the last one also stores both averages, the entry's sum shifted right (low
8 bits: log 19), and changes no byte but those three. 4:4:4 stores the pixel's own U and V and uses no accumulator. The
bytes are read back for a pixel of a whole image, where luma, U and V stand at different places. -/
def Obligations.AccumulatorSeedAndAdd : Prop :=
  ∀ (s : State) (src : RgbTag) (dst : YuvTag),
    let t := s.pixelStep (.convert src dst)
    let x := s.presentYuv src
    let n := s.pixel.toNat
    let w := s.latched.w.toNat
    let r := n / w
    let c := n % w
    let p := s.latched.p.toNat
    let luma := s.latched.d.toNat + lumaOffset dst n
    let uAt := fun group => s.latched.d.toNat + chromaUOffset dst p group
    let vAt := fun group => s.latched.d.toNat + chromaVOffset dst p group
    let onlyChanged := fun places : List Nat => ∀ a, a ∉ places → memRead t.mem a = memRead s.mem a
    let whole := p = w * s.latched.h.toNat ∧ n < p ∧ p % yuvDivisor dst = 0 ∧ DimsFit dst w s.latched.h.toNat
    let group := fun (entry : Nat) (seed last : Prop) (index shift : Nat) =>
      (seed → sparseRead t.accU entry = x.u.setWidth 12 ∧ sparseRead t.accV entry = x.v.setWidth 12) ∧
      (¬seed → sparseRead t.accU entry = sparseRead s.accU entry + x.u.setWidth 12 ∧
        sparseRead t.accV entry = sparseRead s.accV entry + x.v.setWidth 12) ∧
      (∀ j, j ≠ entry → sparseRead t.accU j = sparseRead s.accU j ∧ sparseRead t.accV j = sparseRead s.accV j) ∧
      (¬last → onlyChanged [luma]) ∧
      (last → onlyChanged [luma, uAt index, vAt index] ∧
        (whole → (memRead t.mem (uAt index)).toNat = (sparseRead t.accU entry).toNat / 2 ^ shift % 256 ∧
          (memRead t.mem (vAt index)).toNat = (sparseRead t.accV entry).toNat / 2 ^ shift % 256))
    t.pixel = s.pixel + 1 ∧ (whole → memRead t.mem luma = x.y) ∧
    match subsampling dst with
    | .s444 => t.accU = s.accU ∧ t.accV = s.accV ∧ onlyChanged [luma, uAt n, vAt n] ∧
        memRead t.mem (uAt n) = x.u ∧ memRead t.mem (vAt n) = x.v
    | .s422 => group 0 (n % 2 = 0) (n % 2 = 1) (n / 2) 1
    | .s411 => group 0 (n % 4 = 0) (n % 4 = 3) (n / 4) 2
    | .s420 => group (c / 2) (r % 2 = 0 ∧ c % 2 = 0) (r % 2 = 1 ∧ c % 2 = 1) (r / 2 * (w / 2) + c / 2) 2
    | .s410 => group (c / 4) (r % 4 = 0 ∧ c % 4 = 0) (r % 4 = 3 ∧ c % 4 = 3) (r / 4 * (w / 4) + c / 4) 4

/-- R263 with R265 to R268: when CONVERT is refused, and with which code: the first check that fails. -/
def Obligations.ConvertRefusalsInOrder : Prop :=
  ∀ (src : RgbTag) (dst : YuvTag) (s : State), s.status.busy = false →
    let refused := fun code =>
      exec (Command.convert src dst).instr s = .next (refusedWith s (encode (Command.convert src dst).instr) code)
    let pair := (src, dst) ∈ s.cfg.supportedPairs
    let dims := s.pixels % yuvDivisor dst = 0 ∧ DimsFit dst s.width.toNat s.height.toNat
    let size := s.dstLen.toNat = yuvBytes dst s.pixels
    let ranges := s.Holds s.srcAddr.toNat (rgbBytes src s.pixels) ∧ s.Holds s.dstAddr.toNat (yuvBytes dst s.pixels)
    (¬pair → refused 2) ∧ (pair → ¬dims → refused 3) ∧ (pair → dims → ¬size → refused 4) ∧
    (pair → dims → size → ¬ranges → refused 5) ∧
    (pair → dims → size → ranges →
      ¬Apart s.srcAddr.toNat (rgbBytes src s.pixels) s.dstAddr.toNat (yuvBytes dst s.pixels) → refused 6)

/-- R250: an empty image. REQBYTES gives 0; NORMALIZE writes nothing and sets CAN_PTR; CONVERT with `L = 0` writes
nothing and completes, with `L ≠ 0` it is refused, but for a 4:2:0 or 4:1:0 target whose condition the other dimension fails: E_DIM. -/
def Obligations.EmptyImage : Prop :=
  ∀ (s : State), s.status.busy = false → s.width = 0 ∨ s.height = 0 →
    (∀ g : Tag, ∃ t, exec (Command.reqbytes g).instr s = .next t ∧ t.status = .doneOnly ∧ t.result = 0) ∧
    (∀ src : RgbTag, ∃ t, exec (Command.normalize src).instr s = .next t ∧ t.status = .doneOnly ∧ t.mem = s.mem ∧
      t.canPtr = if src = .rgb888 then s.srcAddr else s.canAddr) ∧
    (∀ (src : RgbTag) (dst : YuvTag), (src, dst) ∈ s.cfg.supportedPairs →
      (DimsFit dst s.width.toNat s.height.toNat → s.dstLen = 0 →
        ∃ t, exec (Command.convert src dst).instr s = .next t ∧ t.status = .doneOnly ∧ t.mem = s.mem) ∧
      (DimsFit dst s.width.toNat s.height.toNat → s.dstLen ≠ 0 →
        ∃ t, exec (Command.convert src dst).instr s = .next t ∧ t.status = .errOnly 4 ∧ t.mem = s.mem) ∧
      (¬DimsFit dst s.width.toNat s.height.toNat →
        ∃ t, exec (Command.convert src dst).instr s = .next t ∧ t.status = .errOnly 3 ∧ t.mem = s.mem))

/-- R199: subsampling is exact on uniform images: when every pixel has the same Y, U and V, every luma and every chroma
sample of every target is that value. -/
def Obligations.UniformImageKeepsItsColour : Prop :=
  ∀ (src : RgbTag) (dst : YuvTag) (s : State) (x : Yuv), ConvertReady s src dst →
    (∀ n, n < s.pixels → s.yuvAt src n = x) →
    ∃ t, exec (Command.convert src dst).instr s = .next t ∧
      (∀ n, n < s.pixels → memRead t.mem (s.dstAddr.toNat + lumaOffset dst n) = x.y) ∧
      ∀ g, g < groupCount dst s.pixels →
        memRead t.mem (s.dstAddr.toNat + chromaUOffset dst s.pixels g) = x.u ∧
        memRead t.mem (s.dstAddr.toNat + chromaVOffset dst s.pixels g) = x.v

/-- R158: CONVERT of a packed source writes, byte for byte, what a NORMALIZE of it followed by a CONVERT of the canonical
array writes. -/
def Obligations.ConvertIsNormalizeThenConvert : Prop :=
  ∀ (src : RgbTag) (dst : YuvTag) (s t u v : State), s.status.busy = false → src ≠ .rgb888 →
    exec (Command.normalize src).instr s = .next t → t.status = .doneOnly →
    exec (Command.convert src dst).instr s = .next u → u.status = .doneOnly →
    exec (Command.convert .rgb888 dst).instr { t with srcAddr := t.canPtr } = .next v → v.status = .doneOnly →
    ∀ j, j < yuvBytes dst s.pixels →
      memRead u.mem (s.dstAddr.toNat + j) = memRead v.mem (s.dstAddr.toNat + j)

/-! ### Whole-machine rules -/

/-- R68 (and R67): what every instruction leaves: every byte outside its write set is as before; an instruction that is
refused, NOP, REQBYTES and NORMALIZE of RGB888 change no byte. -/
def Obligations.BytesOutsideTheWriteSetUnchanged : Prop :=
  ∀ (i : Instr) (s t : State), exec i s = .next t →
    (∀ a, (match i.command with
        | .normalize src => src ≠ .rgb888 → ¬(s.canAddr.toNat ≤ a ∧ a < s.canAddr.toNat + 3 * s.pixels)
        | .convert _ dst => ¬(s.dstAddr.toNat ≤ a ∧ a < s.dstAddr.toNat + yuvBytes dst s.pixels)
        | _ => True) → memRead t.mem a = memRead s.mem a) ∧
    (s.status.busy = false → t.status.err = true → t.mem = s.mem)

/-- R249, R66: the result of a command is a function of the command word, the latched operands and the bytes of its
source range, and of nothing else: not of other memory, the accumulators, earlier results or the flags. -/
def Obligations.ResultDependsOnlyOnOperandsAndSource : Prop :=
  ∀ (i : Instr) (s s' : State), s.status.busy = false → s'.status.busy = false → s'.cfg = s.cfg →
    s'.latchOf (encode i) = s.latchOf (encode i) →
    (∀ a, (sourceRange i.command (s.latchOf (encode i))).1 ≤ a →
      a < (sourceRange i.command (s.latchOf (encode i))).1 + (sourceRange i.command (s.latchOf (encode i))).2 →
      memRead s'.mem a = memRead s.mem a) →
    ∃ t t', exec i s = .next t ∧ exec i s' = .next t' ∧ t'.status = t.status ∧
      (t.status.done = true →
        (∀ g, i.command = .reqbytes g → t'.result = t.result) ∧
        (∀ src, i.command = .normalize src → t'.canPtr = t.canPtr) ∧
        ∀ a, (writeRange i.command (s.latchOf (encode i))).1 ≤ a →
          a < (writeRange i.command (s.latchOf (encode i))).1 + (writeRange i.command (s.latchOf (encode i))).2 →
          memRead t'.mem a = memRead t.mem a)

/-- R33, R248, R301: a command run within its CMD write ends in the same state as the same command issued, left BUSY and
run by the engine pixel by pixel. -/
def Obligations.PixelByPixelRunEqualsWholeCommand : Prop :=
  ∀ (i : Instr) (s : State), s.status.busy = false →
    exec i s = .next (State.engineSteps (s.pixels + 1) (cmdIssue (encode i) s))

/-- R248: every running command completes: after the pixels that are left, BUSY is 0. That the engine moves one pixel at a
time is the model's own form (log 6). -/
def Obligations.RunningCommandCompletes : Prop :=
  ∀ (s : State) (c : Command), s.status.busy = true → s.running = some c →
    (State.engineSteps (s.latched.p.toNat - s.pixel.toNat + 1) s).status.busy = false

/-- R301: WAIT ends: the number of reads is finite. The rule does not specify it: that one WAIT step moves the engine one
pixel, and so the bound (the pixels that are left and one read more), is the model's choice (log 6), and so is WAIT as
one input that logs one STATUS read, the last (log 20). -/
def Obligations.WaitEnds : Prop :=
  ∀ (s : State) (c : Command), s.status.busy = true → s.running = some c →
    ∃ k t, k ≤ s.latched.p.toNat - s.pixel.toNat + 1 ∧ core.run (k + 1) (s.given .wait) = .next t ∧
      t.status.busy = false ∧ t.inbox = s.inbox ∧ t.replies = s.replies ++ [.word t.status.word]

/-! ### Memory and the host -/

/-- R63, R75, R298: a host that keeps the protocol: a write of bytes inside the memory stores exactly them, a read
returns exactly the bytes of the memory; an access that reaches outside the memory faults (the fault is the model's
choice, log 11). -/
def Obligations.HostMemoryAccess : Prop :=
  ∀ (s : State) (a : Nat),
    (∀ bytes : List Byte, s.Holds a bytes.length → s.mayWrite a bytes.length →
      ∃ m, step (s.given (.memWrite a bytes)) = .next { s with mem := m } ∧
        (∀ j, j < bytes.length → memRead m (a + j) = bytes.getD j 0) ∧ SameOutside s.mem m a bytes.length) ∧
    (∀ len, s.Holds a len → s.mayRead a len →
      ∃ bs : List Byte, bs.length = len ∧ (∀ j, j < len → bs.getD j 0 = memRead s.mem (a + j)) ∧
        step (s.given (.memRead a len)) =
          .next { s with replies := s.replies ++ [.bytes bs], draws := s.draws + len }) ∧
    (∀ bytes : List Byte, ¬s.Holds a bytes.length →
      step (s.given (.memWrite a bytes)) = .fault .hostAddressOutsideMem) ∧
    (∀ len, ¬s.Holds a len → step (s.given (.memRead a len)) = .fault .hostAddressOutsideMem)

/-- R71: a host write that breaks the protocol disturbs no byte but its own and those of write sets that are lent; a
running command whose buffers it touches is marked, so that its destination bytes become free values at its completion.
That window ends only when the host has read STATUS (R298): log 8. -/
def Obligations.DisturbanceIsConfined : Prop :=
  ∀ (s t : State) (a : Nat) (bytes : List Byte), step (s.given (.memWrite a bytes)) = .next t →
    (∀ x, (∀ b ∈ s.lent, ¬(b.dstBase ≤ x ∧ x < b.dstBase + b.dstLen)) →
      memRead t.mem x = if a ≤ x ∧ x < a + bytes.length then bytes.getD (x - a) 0 else memRead s.mem x) ∧
    (s.status.busy = true → ∀ b bs, s.lent = b :: bs → b.touches a bytes.length = true → t.disturbed = true)

/-! ### Reset -/

/-- R40, R290: reset puts every host-visible register to 0 and the engine into IDLE; while IDLE it changes no byte. The
reset state has them so, and an empty list of inputs (the model's own, log 1). -/
def Obligations.ResetClearsRegisters : Prop :=
  (State.reset.readReg 0x04 = 0 ∧ State.reset.status.busy = false ∧ State.reset.width = 0 ∧ State.reset.height = 0 ∧
    State.reset.srcAddr = 0 ∧ State.reset.canAddr = 0 ∧ State.reset.dstAddr = 0 ∧ State.reset.dstLen = 0 ∧
    State.reset.result = 0 ∧ State.reset.canPtr = 0 ∧ State.reset.inbox = []) ∧
  ∀ s : State, ∃ t, step (s.given .reset) = .next t ∧ t.cfg = s.cfg ∧ t.status.word = 0 ∧ t.width = 0 ∧ t.height = 0 ∧
    t.srcAddr = 0 ∧ t.canAddr = 0 ∧ t.dstAddr = 0 ∧ t.dstLen = 0 ∧ t.result = 0 ∧ t.canPtr = 0 ∧
    (s.status.busy = false → t.mem = s.mem)

/-- R291: reset in mid-command. A command issued from `s` and abandoned by a reset after any number of pixels leaves
every byte at its value from before the command or at the value the whole command gives it, so that no byte outside the
write set is affected, and every register at its reset value. -/
def Obligations.ResetInMidCommand : Prop :=
  ∀ (i : Instr) (s t u : State) (k : Nat), s.status.busy = false → exec i s = .next u →
    t = State.engineSteps k (cmdIssue (encode i) s) → t.status.busy = true →
    ∃ r, step (t.given .reset) = .next r ∧ r.status.word = 0 ∧ r.width = 0 ∧ r.height = 0 ∧ r.srcAddr = 0 ∧
      r.canAddr = 0 ∧ r.dstAddr = 0 ∧ r.dstLen = 0 ∧ r.result = 0 ∧ r.canPtr = 0 ∧
      ∀ a, memRead r.mem a = memRead s.mem a ∨ memRead r.mem a = memRead u.mem a

/-! ### The invariant -/

/-- R23, R26, R27, R36, R39, R60, R66, R67: every step from a legal state gives a legal state: the hardwired bits of the
operand registers are 0, STATUS has at most one flag and a legal code, the memory stays canonical and inside `MEM_SIZE`, the accumulator indices stay below 32768, and a BUSY
engine runs a checked command whose pixel index is in range. (The canonical form is the model's: log 3.) -/
def Obligations.StepKeepsLegal : Prop :=
  ∀ s t : State, s.Legal → step s = .next t → t.Legal

/-- R40: the reset state is legal (its MEM_SIZE is the model's choice: log 2). -/
def Obligations.ResetStateIsLegal : Prop := State.reset.Legal

/-! ### The parameters -/

/-- R4: the parameters at reset are this hardware's: `AW` 32, `DIM_BITS` 16, all 75 pairs, the layouts of R153 and R154
(`MATRIX`: MatrixRows), and `MEM_SIZE` in the rule's bounds (its value is the model's choice: log 2); every engine has at
most those widths. -/
def Obligations.ParametersAtReset : Prop :=
  State.reset.cfg.aw = 32 ∧ State.reset.cfg.dimBits = 16 ∧
  (∀ (src : RgbTag) (dst : YuvTag), (src, dst) ∈ State.reset.cfg.supportedPairs) ∧
  State.reset.cfg.supportedPairs.length = 75 ∧ State.reset.cfg.rgb555 = { r := 10, g := 5, b := 0 } ∧
  State.reset.cfg.rgb444 = { evenB := 0, evenG := 1, evenR := 2, oddB := 3, oddG := 4, oddR := 5 } ∧
  State.reset.cfg.wf ∧ ∀ c : Config, c.aw.val ≤ 32 ∧ c.dimBits.val ≤ 16
end

