-- ==== Sys2Proof/Laws/Memory.lean ====
section
/-! SUPPORT. The laws of sparse arrays and of memory: a read after a write, and the canonical form kept by every
operation. They hold of every list, canonical or not, but for the canonical form itself. -/

namespace Sys2Proof.Machine

variable {w : Nat}

theorem sparseRead_erase (m : List (Nat × BitVec w)) (a b : Nat) :
    sparseRead (sparseErase m a) b = if b = a then 0 else sparseRead m b := by
  induction m with
  | nil => simp [sparseErase, sparseRead]
  | cons e rest ih =>
    obtain ⟨k, v⟩ := e
    by_cases hk : k = a <;> by_cases hb : b = a <;> by_cases hkb : k = b <;>
      simp_all [sparseErase, sparseRead]

theorem sparseErase_absent (m : List (Nat × BitVec w)) (a : Nat) :
    ∀ e ∈ sparseErase m a, e.1 ≠ a := by
  induction m with
  | nil => simp [sparseErase]
  | cons e rest ih =>
    obtain ⟨k, v⟩ := e
    by_cases hk : k = a
    · simpa [sparseErase, hk] using ih
    · intro e he
      simp only [sparseErase, hk, if_false, List.mem_cons] at he
      rcases he with rfl | he
      · exact hk
      · exact ih e he

theorem sparseRead_insert (m : List (Nat × BitVec w)) (a : Nat) (v : BitVec w) (b : Nat)
    (h : ∀ e ∈ m, e.1 ≠ a) :
    sparseRead (sparseInsert m a v) b = if b = a then v else sparseRead m b := by
  induction m with
  | nil => simp [sparseInsert, sparseRead, eq_comm]
  | cons e rest ih =>
    obtain ⟨k, x⟩ := e
    have hk : k ≠ a := h (k, x) (by simp)
    have hr := ih fun e he => h e (by simp [he])
    by_cases hlt : a < k
    · simp only [sparseInsert, hlt, if_true, sparseRead]
      by_cases hb : b = a
      · simp [hb]
      · simp [hb, Ne.symm hb]
    · simp only [sparseInsert, hlt, if_false, sparseRead, hr]
      by_cases hkb : k = b
      · subst hkb
        simp [hk]
      · simp [hkb]

/-- A read after a write, at every index. -/
theorem sparseRead_write (m : List (Nat × BitVec w)) (a : Nat) (v : BitVec w) (b : Nat) :
    sparseRead (sparseWrite m a v) b = if b = a then v else sparseRead m b := by
  by_cases hv : v = 0
  · by_cases hb : b = a <;> simp [sparseWrite, hv, hb, sparseRead_erase]
  · rw [sparseWrite, if_neg hv, sparseRead_insert _ _ _ _ (sparseErase_absent m a), sparseRead_erase]
    by_cases hb : b = a <;> simp [hb]

theorem sparseErase_mem (m : List (Nat × BitVec w)) (a : Nat) :
    ∀ e ∈ sparseErase m a, e ∈ m := by
  induction m with
  | nil => simp [sparseErase]
  | cons e rest ih =>
    obtain ⟨k, v⟩ := e
    by_cases hk : k = a
    · intro e he
      simp only [sparseErase, hk, if_true] at he
      exact List.mem_cons_of_mem _ (ih e he)
    · intro e he
      simp only [sparseErase, hk, if_false, List.mem_cons] at he
      rcases he with rfl | he
      · simp
      · exact List.mem_cons_of_mem _ (ih e he)

theorem sparseInsert_mem (m : List (Nat × BitVec w)) (a : Nat) (v : BitVec w) :
    ∀ e ∈ sparseInsert m a v, e = (a, v) ∨ e ∈ m := by
  induction m with
  | nil => simp [sparseInsert]
  | cons e rest ih =>
    obtain ⟨k, x⟩ := e
    intro e he
    by_cases hlt : a < k
    · simpa [sparseInsert, hlt] using he
    · simp only [sparseInsert, hlt, if_false, List.mem_cons] at he ⊢
      rcases he with rfl | he
      · simp
      · rcases ih e he with h | h <;> simp [h]

/-- What a write lists was listed before or is the pair written. -/
theorem sparseWrite_mem (m : List (Nat × BitVec w)) (a : Nat) (v : BitVec w) :
    ∀ e ∈ sparseWrite m a v, e = (a, v) ∨ e ∈ m := by
  intro e he
  by_cases hv : v = 0
  · rw [sparseWrite, if_pos hv] at he
    exact .inr (sparseErase_mem m a e he)
  · rw [sparseWrite, if_neg hv] at he
    exact (sparseInsert_mem _ a v e he).imp_right (sparseErase_mem m a e)

theorem sparseWf_cons (k : Nat) (v : BitVec w) (rest : List (Nat × BitVec w)) :
    sparseWf ((k, v) :: rest) = true ↔ v ≠ 0 ∧ (∀ e ∈ rest, k < e.1) ∧ sparseWf rest = true := by
  simp [sparseWf, and_assoc]

theorem sparseWf_erase (m : List (Nat × BitVec w)) (a : Nat) (h : sparseWf m = true) :
    sparseWf (sparseErase m a) = true := by
  induction m with
  | nil => rfl
  | cons e rest ih =>
    obtain ⟨k, v⟩ := e
    obtain ⟨hv, hk, hr⟩ := (sparseWf_cons k v rest).1 h
    by_cases hka : k = a
    · simpa [sparseErase, hka] using ih hr
    · simp only [sparseErase, hka, if_false]
      exact (sparseWf_cons _ _ _).2 ⟨hv, fun e he => hk e (sparseErase_mem rest a e he), ih hr⟩

theorem sparseWf_insert (m : List (Nat × BitVec w)) (a : Nat) (v : BitVec w) (h : sparseWf m = true)
    (ha : ∀ e ∈ m, e.1 ≠ a) (hv : v ≠ 0) : sparseWf (sparseInsert m a v) = true := by
  induction m with
  | nil => simpa [sparseInsert, sparseWf] using hv
  | cons e rest ih =>
    obtain ⟨k, x⟩ := e
    obtain ⟨hx, hk, hr⟩ := (sparseWf_cons k x rest).1 h
    have hka : k ≠ a := ha (k, x) (by simp)
    by_cases hlt : a < k
    · simp only [sparseInsert, hlt, if_true]
      refine (sparseWf_cons _ _ _).2 ⟨hv, fun e he => ?_, h⟩
      rcases List.mem_cons.1 he with rfl | he
      · exact hlt
      · exact hlt.trans (hk e he)
    · simp only [sparseInsert, hlt, if_false]
      refine (sparseWf_cons _ _ _).2 ⟨hx, fun e he => ?_, ih hr fun e he => ha e (by simp [he])⟩
      rcases sparseInsert_mem rest a v e he with rfl | he
      · exact lt_of_le_of_ne (not_lt.1 hlt) hka
      · exact hk e he

/-- Every write keeps the canonical form. -/
theorem sparseWf_write (m : List (Nat × BitVec w)) (a : Nat) (v : BitVec w) (h : sparseWf m = true) :
    sparseWf (sparseWrite m a v) = true := by
  by_cases hv : v = 0
  · rw [sparseWrite, if_pos hv]
    exact sparseWf_erase m a h
  · rw [sparseWrite, if_neg hv]
    exact sparseWf_insert _ a v (sparseWf_erase m a h) (sparseErase_absent m a) hv

/-- A memory read after a memory write. -/
theorem memRead_write (m : List Host.Cell) (a : Nat) (v : Byte) (b : Nat) :
    memRead (memWrite m a v) b = if b = a then v else memRead m b :=
  sparseRead_write m a v b

@[simp] theorem memRead_write_same (m : List Host.Cell) (a : Nat) (v : Byte) :
    memRead (memWrite m a v) a = v := by simp [memRead_write]

theorem memRead_write_other (m : List Host.Cell) (a : Nat) (v : Byte) (b : Nat) (h : b ≠ a) :
    memRead (memWrite m a v) b = memRead m b := by simp [memRead_write, h]

theorem memWf_write (m : List Host.Cell) (a : Nat) (v : Byte) (h : memWf m = true) :
    memWf (memWrite m a v) = true :=
  sparseWf_write m a v h

/-- Every byte after a fill. -/
theorem memRead_fill (m : List Host.Cell) (base : Nat) (f : Nat → Byte) (len a : Nat) :
    memRead (memFill m base f len) a =
      if base ≤ a ∧ a < base + len then f (a - base) else memRead m a := by
  induction len with
  | zero =>
    have : ¬ (base ≤ a ∧ a < base + 0) := by omega
    simp only [memFill, if_neg this]
  | succ len ih =>
    rw [memFill, memRead_write, ih]
    by_cases h : a = base + len
    · subst h
      simp
    · have : (base ≤ a ∧ a < base + (len + 1)) ↔ (base ≤ a ∧ a < base + len) := by omega
      simp only [h, if_false, this]

theorem memWf_fill (m : List Host.Cell) (base : Nat) (f : Nat → Byte) (len : Nat) (h : memWf m = true) :
    memWf (memFill m base f len) = true := by
  induction len with
  | zero => exact h
  | succ len ih => exact memWf_write _ _ _ ih

/-- Every byte after a write of bytes at ascending addresses. -/
theorem memRead_writeBytes (bs : List Byte) (m : List Host.Cell) (a b : Nat) :
    memRead (memWriteBytes m a bs) b =
      if a ≤ b ∧ b < a + bs.length then bs.getD (b - a) 0 else memRead m b := by
  induction bs generalizing m a with
  | nil =>
    have : ¬ (a ≤ b ∧ b < a + ([] : List Byte).length) := by simp
    simp only [memWriteBytes, if_neg this]
  | cons x xs ih =>
    rw [memWriteBytes, ih, memRead_write]
    by_cases h : b = a
    · subst h
      simp
    · by_cases h2 : a + 1 ≤ b ∧ b < a + 1 + xs.length
      · have h3 : a ≤ b ∧ b < a + (x :: xs).length := by simp; omega
        obtain ⟨d, rfl⟩ := Nat.exists_eq_add_of_le h2.1
        have h4 : a + 1 + d - a = d + 1 := by omega
        rw [if_pos h2, if_pos h3, h4, List.getD_cons_succ]
        congr 1
        omega
      · have h3 : ¬ (a ≤ b ∧ b < a + (x :: xs).length) := by simp; omega
        simp only [h2, h3, h, if_false]

theorem memWf_writeBytes (bs : List Byte) (m : List Host.Cell) (a : Nat) (h : memWf m = true) :
    memWf (memWriteBytes m a bs) = true := by
  induction bs generalizing m a with
  | nil => exact h
  | cons x xs ih => exact ih _ _ (memWf_write _ _ _ h)

/-- The bytes a read of a range gives, one by one. -/
theorem memReadBytes_getD (m : List Host.Cell) (len a i : Nat) (h : i < len) :
    (memReadBytes m a len).getD i 0 = memRead m (a + i) := by
  induction len generalizing a i with
  | zero => omega
  | succ len ih =>
    cases i with
    | zero => simp [memReadBytes]
    | succ i =>
      have := ih (a + 1) i (by omega)
      simp only [memReadBytes, List.getD_cons_succ, this]
      congr 1
      omega

@[simp] theorem memReadBytes_length (m : List Host.Cell) (len a : Nat) :
    (memReadBytes m a len).length = len := by
  induction len generalizing a with
  | zero => rfl
  | succ len ih => simp [memReadBytes, ih]

/-- Every byte after a canonical pixel is stored: B, G, R at ascending addresses. -/
theorem memRead_storePixel (m : List Host.Cell) (a : Nat) (x : Pixel) (b : Nat) :
    memRead (storePixel m a x) b =
      if b = a + 2 then x.r else if b = a + 1 then x.g else if b = a then x.b else memRead m b := by
  simp [storePixel, memRead_write]

theorem memWf_storePixel (m : List Host.Cell) (a : Nat) (x : Pixel) (h : memWf m = true) :
    memWf (storePixel m a x) = true :=
  memWf_write _ _ _ (memWf_write _ _ _ (memWf_write _ _ _ h))

end Sys2Proof.Machine
end

