-- ==== Sys2Proof/Laws/State.lean ====
section
/-! SUPPORT. What each update of the state leaves in each field: one lemma per field and update. -/

namespace Sys2Proof.Machine

@[simp] theorem State.issue_cfg (s : State) (k : Word) :
    (s.issue k).cfg = s.cfg := rfl
@[simp] theorem State.issue_status (s : State) (k : Word) :
    (s.issue k).status = s.status.issued := rfl
@[simp] theorem State.issue_width (s : State) (k : Word) :
    (s.issue k).width = s.width := rfl
@[simp] theorem State.issue_height (s : State) (k : Word) :
    (s.issue k).height = s.height := rfl
@[simp] theorem State.issue_srcAddr (s : State) (k : Word) :
    (s.issue k).srcAddr = s.srcAddr := rfl
@[simp] theorem State.issue_canAddr (s : State) (k : Word) :
    (s.issue k).canAddr = s.canAddr := rfl
@[simp] theorem State.issue_dstAddr (s : State) (k : Word) :
    (s.issue k).dstAddr = s.dstAddr := rfl
@[simp] theorem State.issue_dstLen (s : State) (k : Word) :
    (s.issue k).dstLen = s.dstLen := rfl
@[simp] theorem State.issue_result (s : State) (k : Word) :
    (s.issue k).result = s.result := rfl
@[simp] theorem State.issue_canPtr (s : State) (k : Word) :
    (s.issue k).canPtr = s.canPtr := rfl
@[simp] theorem State.issue_latched (s : State) (k : Word) :
    (s.issue k).latched = s.latchOf k := rfl
@[simp] theorem State.issue_pixel (s : State) (k : Word) :
    (s.issue k).pixel = s.pixel := rfl
@[simp] theorem State.issue_accU (s : State) (k : Word) :
    (s.issue k).accU = s.accU := rfl
@[simp] theorem State.issue_accV (s : State) (k : Word) :
    (s.issue k).accV = s.accV := rfl
@[simp] theorem State.issue_mem (s : State) (k : Word) :
    (s.issue k).mem = s.mem := rfl
@[simp] theorem State.issue_before (s : State) (k : Word) :
    (s.issue k).before = s.before := rfl
@[simp] theorem State.issue_disturbed (s : State) (k : Word) :
    (s.issue k).disturbed = s.disturbed := rfl
@[simp] theorem State.issue_lent (s : State) (k : Word) :
    (s.issue k).lent = s.lent := rfl
@[simp] theorem State.issue_draws (s : State) (k : Word) :
    (s.issue k).draws = s.draws := rfl
@[simp] theorem State.issue_inbox (s : State) (k : Word) :
    (s.issue k).inbox = s.inbox := rfl
@[simp] theorem State.issue_replies (s : State) (k : Word) :
    (s.issue k).replies = s.replies := rfl

@[simp] theorem State.raise_cfg (s : State) (e : ErrorCode) :
    (s.raise e).cfg = s.cfg := rfl
@[simp] theorem State.raise_status (s : State) (e : ErrorCode) :
    (s.raise e).status = s.status.refused e := rfl
@[simp] theorem State.raise_width (s : State) (e : ErrorCode) :
    (s.raise e).width = s.width := rfl
@[simp] theorem State.raise_height (s : State) (e : ErrorCode) :
    (s.raise e).height = s.height := rfl
@[simp] theorem State.raise_srcAddr (s : State) (e : ErrorCode) :
    (s.raise e).srcAddr = s.srcAddr := rfl
@[simp] theorem State.raise_canAddr (s : State) (e : ErrorCode) :
    (s.raise e).canAddr = s.canAddr := rfl
@[simp] theorem State.raise_dstAddr (s : State) (e : ErrorCode) :
    (s.raise e).dstAddr = s.dstAddr := rfl
@[simp] theorem State.raise_dstLen (s : State) (e : ErrorCode) :
    (s.raise e).dstLen = s.dstLen := rfl
@[simp] theorem State.raise_result (s : State) (e : ErrorCode) :
    (s.raise e).result = s.result := rfl
@[simp] theorem State.raise_canPtr (s : State) (e : ErrorCode) :
    (s.raise e).canPtr = s.canPtr := rfl
@[simp] theorem State.raise_latched (s : State) (e : ErrorCode) :
    (s.raise e).latched = s.latched := rfl
@[simp] theorem State.raise_pixel (s : State) (e : ErrorCode) :
    (s.raise e).pixel = s.pixel := rfl
@[simp] theorem State.raise_accU (s : State) (e : ErrorCode) :
    (s.raise e).accU = s.accU := rfl
@[simp] theorem State.raise_accV (s : State) (e : ErrorCode) :
    (s.raise e).accV = s.accV := rfl
@[simp] theorem State.raise_mem (s : State) (e : ErrorCode) :
    (s.raise e).mem = s.mem := rfl
@[simp] theorem State.raise_before (s : State) (e : ErrorCode) :
    (s.raise e).before = s.before := rfl
@[simp] theorem State.raise_disturbed (s : State) (e : ErrorCode) :
    (s.raise e).disturbed = s.disturbed := rfl
@[simp] theorem State.raise_lent (s : State) (e : ErrorCode) :
    (s.raise e).lent = s.lent := rfl
@[simp] theorem State.raise_draws (s : State) (e : ErrorCode) :
    (s.raise e).draws = s.draws := rfl
@[simp] theorem State.raise_inbox (s : State) (e : ErrorCode) :
    (s.raise e).inbox = s.inbox := rfl
@[simp] theorem State.raise_replies (s : State) (e : ErrorCode) :
    (s.raise e).replies = s.replies := rfl

@[simp] theorem State.refuse_cfg (s : State) (k : Word) (e : ErrorCode) :
    (s.refuse k e).cfg = s.cfg := rfl
@[simp] theorem State.refuse_status (s : State) (k : Word) (e : ErrorCode) :
    (s.refuse k e).status = s.status.issued.refused e := rfl
@[simp] theorem State.refuse_width (s : State) (k : Word) (e : ErrorCode) :
    (s.refuse k e).width = s.width := rfl
@[simp] theorem State.refuse_height (s : State) (k : Word) (e : ErrorCode) :
    (s.refuse k e).height = s.height := rfl
@[simp] theorem State.refuse_srcAddr (s : State) (k : Word) (e : ErrorCode) :
    (s.refuse k e).srcAddr = s.srcAddr := rfl
@[simp] theorem State.refuse_canAddr (s : State) (k : Word) (e : ErrorCode) :
    (s.refuse k e).canAddr = s.canAddr := rfl
@[simp] theorem State.refuse_dstAddr (s : State) (k : Word) (e : ErrorCode) :
    (s.refuse k e).dstAddr = s.dstAddr := rfl
@[simp] theorem State.refuse_dstLen (s : State) (k : Word) (e : ErrorCode) :
    (s.refuse k e).dstLen = s.dstLen := rfl
@[simp] theorem State.refuse_result (s : State) (k : Word) (e : ErrorCode) :
    (s.refuse k e).result = s.result := rfl
@[simp] theorem State.refuse_canPtr (s : State) (k : Word) (e : ErrorCode) :
    (s.refuse k e).canPtr = s.canPtr := rfl
@[simp] theorem State.refuse_latched (s : State) (k : Word) (e : ErrorCode) :
    (s.refuse k e).latched = s.latchOf k := rfl
@[simp] theorem State.refuse_pixel (s : State) (k : Word) (e : ErrorCode) :
    (s.refuse k e).pixel = s.pixel := rfl
@[simp] theorem State.refuse_accU (s : State) (k : Word) (e : ErrorCode) :
    (s.refuse k e).accU = s.accU := rfl
@[simp] theorem State.refuse_accV (s : State) (k : Word) (e : ErrorCode) :
    (s.refuse k e).accV = s.accV := rfl
@[simp] theorem State.refuse_mem (s : State) (k : Word) (e : ErrorCode) :
    (s.refuse k e).mem = s.mem := rfl
@[simp] theorem State.refuse_before (s : State) (k : Word) (e : ErrorCode) :
    (s.refuse k e).before = s.before := rfl
@[simp] theorem State.refuse_disturbed (s : State) (k : Word) (e : ErrorCode) :
    (s.refuse k e).disturbed = s.disturbed := rfl
@[simp] theorem State.refuse_lent (s : State) (k : Word) (e : ErrorCode) :
    (s.refuse k e).lent = s.lent := rfl
@[simp] theorem State.refuse_draws (s : State) (k : Word) (e : ErrorCode) :
    (s.refuse k e).draws = s.draws := rfl
@[simp] theorem State.refuse_inbox (s : State) (k : Word) (e : ErrorCode) :
    (s.refuse k e).inbox = s.inbox := rfl
@[simp] theorem State.refuse_replies (s : State) (k : Word) (e : ErrorCode) :
    (s.refuse k e).replies = s.replies := rfl

@[simp] theorem State.complete_cfg (s : State) :
    (s.complete).cfg = s.cfg := rfl
@[simp] theorem State.complete_status (s : State) :
    (s.complete).status = s.status.completed := rfl
@[simp] theorem State.complete_width (s : State) :
    (s.complete).width = s.width := rfl
@[simp] theorem State.complete_height (s : State) :
    (s.complete).height = s.height := rfl
@[simp] theorem State.complete_srcAddr (s : State) :
    (s.complete).srcAddr = s.srcAddr := rfl
@[simp] theorem State.complete_canAddr (s : State) :
    (s.complete).canAddr = s.canAddr := rfl
@[simp] theorem State.complete_dstAddr (s : State) :
    (s.complete).dstAddr = s.dstAddr := rfl
@[simp] theorem State.complete_dstLen (s : State) :
    (s.complete).dstLen = s.dstLen := rfl
@[simp] theorem State.complete_result (s : State) :
    (s.complete).result = s.result := rfl
@[simp] theorem State.complete_canPtr (s : State) :
    (s.complete).canPtr = s.canPtr := rfl
@[simp] theorem State.complete_latched (s : State) :
    (s.complete).latched = s.latched := rfl
@[simp] theorem State.complete_pixel (s : State) :
    (s.complete).pixel = s.pixel := rfl
@[simp] theorem State.complete_accU (s : State) :
    (s.complete).accU = s.accU := rfl
@[simp] theorem State.complete_accV (s : State) :
    (s.complete).accV = s.accV := rfl
@[simp] theorem State.complete_mem (s : State) :
    (s.complete).mem = s.mem := rfl
@[simp] theorem State.complete_before (s : State) :
    (s.complete).before = s.before := rfl
@[simp] theorem State.complete_disturbed (s : State) :
    (s.complete).disturbed = s.disturbed := rfl
@[simp] theorem State.complete_lent (s : State) :
    (s.complete).lent = s.lent := rfl
@[simp] theorem State.complete_draws (s : State) :
    (s.complete).draws = s.draws := rfl
@[simp] theorem State.complete_inbox (s : State) :
    (s.complete).inbox = s.inbox := rfl
@[simp] theorem State.complete_replies (s : State) :
    (s.complete).replies = s.replies := rfl

@[simp] theorem State.start_cfg (s : State) (c : Command) :
    (s.start c).cfg = s.cfg := rfl
@[simp] theorem State.start_status (s : State) (c : Command) :
    (s.start c).status = s.status.accepted := rfl
@[simp] theorem State.start_width (s : State) (c : Command) :
    (s.start c).width = s.width := rfl
@[simp] theorem State.start_height (s : State) (c : Command) :
    (s.start c).height = s.height := rfl
@[simp] theorem State.start_srcAddr (s : State) (c : Command) :
    (s.start c).srcAddr = s.srcAddr := rfl
@[simp] theorem State.start_canAddr (s : State) (c : Command) :
    (s.start c).canAddr = s.canAddr := rfl
@[simp] theorem State.start_dstAddr (s : State) (c : Command) :
    (s.start c).dstAddr = s.dstAddr := rfl
@[simp] theorem State.start_dstLen (s : State) (c : Command) :
    (s.start c).dstLen = s.dstLen := rfl
@[simp] theorem State.start_result (s : State) (c : Command) :
    (s.start c).result = s.result := rfl
@[simp] theorem State.start_canPtr (s : State) (c : Command) :
    (s.start c).canPtr = s.canPtr := rfl
@[simp] theorem State.start_latched (s : State) (c : Command) :
    (s.start c).latched = s.latched := rfl
@[simp] theorem State.start_pixel (s : State) (c : Command) :
    (s.start c).pixel = 0 := rfl
@[simp] theorem State.start_accU (s : State) (c : Command) :
    (s.start c).accU = s.accU := rfl
@[simp] theorem State.start_accV (s : State) (c : Command) :
    (s.start c).accV = s.accV := rfl
@[simp] theorem State.start_mem (s : State) (c : Command) :
    (s.start c).mem = s.mem := rfl
@[simp] theorem State.start_before (s : State) (c : Command) :
    (s.start c).before = s.mem := rfl
@[simp] theorem State.start_disturbed (s : State) (c : Command) :
    (s.start c).disturbed = false := rfl
@[simp] theorem State.start_lent (s : State) (c : Command) :
    (s.start c).lent = lendingOf c s.latched :: s.lent := rfl
@[simp] theorem State.start_draws (s : State) (c : Command) :
    (s.start c).draws = s.draws := rfl
@[simp] theorem State.start_inbox (s : State) (c : Command) :
    (s.start c).inbox = s.inbox := rfl
@[simp] theorem State.start_replies (s : State) (c : Command) :
    (s.start c).replies = s.replies := rfl

@[simp] theorem State.scramble_cfg (s : State) (base len : Nat) :
    (s.scramble base len).cfg = s.cfg := rfl
@[simp] theorem State.scramble_status (s : State) (base len : Nat) :
    (s.scramble base len).status = s.status := rfl
@[simp] theorem State.scramble_width (s : State) (base len : Nat) :
    (s.scramble base len).width = s.width := rfl
@[simp] theorem State.scramble_height (s : State) (base len : Nat) :
    (s.scramble base len).height = s.height := rfl
@[simp] theorem State.scramble_srcAddr (s : State) (base len : Nat) :
    (s.scramble base len).srcAddr = s.srcAddr := rfl
@[simp] theorem State.scramble_canAddr (s : State) (base len : Nat) :
    (s.scramble base len).canAddr = s.canAddr := rfl
@[simp] theorem State.scramble_dstAddr (s : State) (base len : Nat) :
    (s.scramble base len).dstAddr = s.dstAddr := rfl
@[simp] theorem State.scramble_dstLen (s : State) (base len : Nat) :
    (s.scramble base len).dstLen = s.dstLen := rfl
@[simp] theorem State.scramble_result (s : State) (base len : Nat) :
    (s.scramble base len).result = s.result := rfl
@[simp] theorem State.scramble_canPtr (s : State) (base len : Nat) :
    (s.scramble base len).canPtr = s.canPtr := rfl
@[simp] theorem State.scramble_latched (s : State) (base len : Nat) :
    (s.scramble base len).latched = s.latched := rfl
@[simp] theorem State.scramble_pixel (s : State) (base len : Nat) :
    (s.scramble base len).pixel = s.pixel := rfl
@[simp] theorem State.scramble_accU (s : State) (base len : Nat) :
    (s.scramble base len).accU = s.accU := rfl
@[simp] theorem State.scramble_accV (s : State) (base len : Nat) :
    (s.scramble base len).accV = s.accV := rfl
@[simp] theorem State.scramble_mem (s : State) (base len : Nat) :
    (s.scramble base len).mem = memFill s.mem base (fun i => Config.freeByte (s.draws + i)) len := rfl
@[simp] theorem State.scramble_before (s : State) (base len : Nat) :
    (s.scramble base len).before = s.before := rfl
@[simp] theorem State.scramble_disturbed (s : State) (base len : Nat) :
    (s.scramble base len).disturbed = s.disturbed := rfl
@[simp] theorem State.scramble_lent (s : State) (base len : Nat) :
    (s.scramble base len).lent = s.lent := rfl
@[simp] theorem State.scramble_draws (s : State) (base len : Nat) :
    (s.scramble base len).draws = s.draws + len := rfl
@[simp] theorem State.scramble_inbox (s : State) (base len : Nat) :
    (s.scramble base len).inbox = s.inbox := rfl
@[simp] theorem State.scramble_replies (s : State) (base len : Nat) :
    (s.scramble base len).replies = s.replies := rfl

@[simp] theorem State.convertPixel_cfg (s : State) (src : RgbTag) (dst : YuvTag) :
    (s.convertPixel src dst).cfg = s.cfg := rfl
@[simp] theorem State.convertPixel_status (s : State) (src : RgbTag) (dst : YuvTag) :
    (s.convertPixel src dst).status = s.status := rfl
@[simp] theorem State.convertPixel_width (s : State) (src : RgbTag) (dst : YuvTag) :
    (s.convertPixel src dst).width = s.width := rfl
@[simp] theorem State.convertPixel_height (s : State) (src : RgbTag) (dst : YuvTag) :
    (s.convertPixel src dst).height = s.height := rfl
@[simp] theorem State.convertPixel_srcAddr (s : State) (src : RgbTag) (dst : YuvTag) :
    (s.convertPixel src dst).srcAddr = s.srcAddr := rfl
@[simp] theorem State.convertPixel_canAddr (s : State) (src : RgbTag) (dst : YuvTag) :
    (s.convertPixel src dst).canAddr = s.canAddr := rfl
@[simp] theorem State.convertPixel_dstAddr (s : State) (src : RgbTag) (dst : YuvTag) :
    (s.convertPixel src dst).dstAddr = s.dstAddr := rfl
@[simp] theorem State.convertPixel_dstLen (s : State) (src : RgbTag) (dst : YuvTag) :
    (s.convertPixel src dst).dstLen = s.dstLen := rfl
@[simp] theorem State.convertPixel_result (s : State) (src : RgbTag) (dst : YuvTag) :
    (s.convertPixel src dst).result = s.result := rfl
@[simp] theorem State.convertPixel_canPtr (s : State) (src : RgbTag) (dst : YuvTag) :
    (s.convertPixel src dst).canPtr = s.canPtr := rfl
@[simp] theorem State.convertPixel_latched (s : State) (src : RgbTag) (dst : YuvTag) :
    (s.convertPixel src dst).latched = s.latched := rfl
@[simp] theorem State.convertPixel_pixel (s : State) (src : RgbTag) (dst : YuvTag) :
    (s.convertPixel src dst).pixel = s.pixel := rfl
@[simp] theorem State.convertPixel_before (s : State) (src : RgbTag) (dst : YuvTag) :
    (s.convertPixel src dst).before = s.before := rfl
@[simp] theorem State.convertPixel_disturbed (s : State) (src : RgbTag) (dst : YuvTag) :
    (s.convertPixel src dst).disturbed = s.disturbed := rfl
@[simp] theorem State.convertPixel_lent (s : State) (src : RgbTag) (dst : YuvTag) :
    (s.convertPixel src dst).lent = s.lent := rfl
@[simp] theorem State.convertPixel_draws (s : State) (src : RgbTag) (dst : YuvTag) :
    (s.convertPixel src dst).draws = s.draws := rfl
@[simp] theorem State.convertPixel_inbox (s : State) (src : RgbTag) (dst : YuvTag) :
    (s.convertPixel src dst).inbox = s.inbox := rfl
@[simp] theorem State.convertPixel_replies (s : State) (src : RgbTag) (dst : YuvTag) :
    (s.convertPixel src dst).replies = s.replies := rfl

@[simp] theorem State.resetRegisters_cfg (s : State) :
    (s.resetRegisters).cfg = s.cfg := rfl
@[simp] theorem State.resetRegisters_status (s : State) :
    (s.resetRegisters).status = Status.reset := rfl
@[simp] theorem State.resetRegisters_width (s : State) :
    (s.resetRegisters).width = 0 := rfl
@[simp] theorem State.resetRegisters_height (s : State) :
    (s.resetRegisters).height = 0 := rfl
@[simp] theorem State.resetRegisters_srcAddr (s : State) :
    (s.resetRegisters).srcAddr = 0 := rfl
@[simp] theorem State.resetRegisters_canAddr (s : State) :
    (s.resetRegisters).canAddr = 0 := rfl
@[simp] theorem State.resetRegisters_dstAddr (s : State) :
    (s.resetRegisters).dstAddr = 0 := rfl
@[simp] theorem State.resetRegisters_dstLen (s : State) :
    (s.resetRegisters).dstLen = 0 := rfl
@[simp] theorem State.resetRegisters_result (s : State) :
    (s.resetRegisters).result = 0 := rfl
@[simp] theorem State.resetRegisters_canPtr (s : State) :
    (s.resetRegisters).canPtr = 0 := rfl
@[simp] theorem State.resetRegisters_latched (s : State) :
    (s.resetRegisters).latched = Latched.reset := rfl
@[simp] theorem State.resetRegisters_pixel (s : State) :
    (s.resetRegisters).pixel = 0 := rfl
@[simp] theorem State.resetRegisters_accU (s : State) :
    (s.resetRegisters).accU = [] := rfl
@[simp] theorem State.resetRegisters_accV (s : State) :
    (s.resetRegisters).accV = [] := rfl
@[simp] theorem State.resetRegisters_mem (s : State) :
    (s.resetRegisters).mem = s.mem := rfl
@[simp] theorem State.resetRegisters_before (s : State) :
    (s.resetRegisters).before = [] := rfl
@[simp] theorem State.resetRegisters_disturbed (s : State) :
    (s.resetRegisters).disturbed = false := rfl
@[simp] theorem State.resetRegisters_lent (s : State) :
    (s.resetRegisters).lent = [] := rfl
@[simp] theorem State.resetRegisters_draws (s : State) :
    (s.resetRegisters).draws = s.draws := rfl
@[simp] theorem State.resetRegisters_inbox (s : State) :
    (s.resetRegisters).inbox = s.inbox := rfl
@[simp] theorem State.resetRegisters_replies (s : State) :
    (s.resetRegisters).replies = s.replies := rfl

@[simp] theorem State.readLogged_cfg (s : State) (offset : Nat) :
    (s.readLogged offset).cfg = s.cfg := rfl
@[simp] theorem State.readLogged_status (s : State) (offset : Nat) :
    (s.readLogged offset).status = s.status := rfl
@[simp] theorem State.readLogged_width (s : State) (offset : Nat) :
    (s.readLogged offset).width = s.width := rfl
@[simp] theorem State.readLogged_height (s : State) (offset : Nat) :
    (s.readLogged offset).height = s.height := rfl
@[simp] theorem State.readLogged_srcAddr (s : State) (offset : Nat) :
    (s.readLogged offset).srcAddr = s.srcAddr := rfl
@[simp] theorem State.readLogged_canAddr (s : State) (offset : Nat) :
    (s.readLogged offset).canAddr = s.canAddr := rfl
@[simp] theorem State.readLogged_dstAddr (s : State) (offset : Nat) :
    (s.readLogged offset).dstAddr = s.dstAddr := rfl
@[simp] theorem State.readLogged_dstLen (s : State) (offset : Nat) :
    (s.readLogged offset).dstLen = s.dstLen := rfl
@[simp] theorem State.readLogged_result (s : State) (offset : Nat) :
    (s.readLogged offset).result = s.result := rfl
@[simp] theorem State.readLogged_canPtr (s : State) (offset : Nat) :
    (s.readLogged offset).canPtr = s.canPtr := rfl
@[simp] theorem State.readLogged_latched (s : State) (offset : Nat) :
    (s.readLogged offset).latched = s.latched := rfl
@[simp] theorem State.readLogged_pixel (s : State) (offset : Nat) :
    (s.readLogged offset).pixel = s.pixel := rfl
@[simp] theorem State.readLogged_accU (s : State) (offset : Nat) :
    (s.readLogged offset).accU = s.accU := rfl
@[simp] theorem State.readLogged_accV (s : State) (offset : Nat) :
    (s.readLogged offset).accV = s.accV := rfl
@[simp] theorem State.readLogged_mem (s : State) (offset : Nat) :
    (s.readLogged offset).mem = s.mem := rfl
@[simp] theorem State.readLogged_before (s : State) (offset : Nat) :
    (s.readLogged offset).before = s.before := rfl
@[simp] theorem State.readLogged_disturbed (s : State) (offset : Nat) :
    (s.readLogged offset).disturbed = s.disturbed := rfl
@[simp] theorem State.readLogged_lent (s : State) (offset : Nat) :
    (s.readLogged offset).lent = if offset = 4 && !s.status.busy then [] else s.lent := rfl
@[simp] theorem State.readLogged_draws (s : State) (offset : Nat) :
    (s.readLogged offset).draws = s.draws := rfl
@[simp] theorem State.readLogged_inbox (s : State) (offset : Nat) :
    (s.readLogged offset).inbox = s.inbox := rfl
@[simp] theorem State.readLogged_replies (s : State) (offset : Nat) :
    (s.readLogged offset).replies = s.replies ++ [.word (s.readReg offset)] := rfl

@[simp] theorem State.normalizePixel_cfg (s : State) (src : RgbTag) :
    (s.normalizePixel src).cfg = s.cfg := by cases src <;> rfl
@[simp] theorem State.normalizePixel_status (s : State) (src : RgbTag) :
    (s.normalizePixel src).status = s.status := by cases src <;> rfl
@[simp] theorem State.normalizePixel_width (s : State) (src : RgbTag) :
    (s.normalizePixel src).width = s.width := by cases src <;> rfl
@[simp] theorem State.normalizePixel_height (s : State) (src : RgbTag) :
    (s.normalizePixel src).height = s.height := by cases src <;> rfl
@[simp] theorem State.normalizePixel_srcAddr (s : State) (src : RgbTag) :
    (s.normalizePixel src).srcAddr = s.srcAddr := by cases src <;> rfl
@[simp] theorem State.normalizePixel_canAddr (s : State) (src : RgbTag) :
    (s.normalizePixel src).canAddr = s.canAddr := by cases src <;> rfl
@[simp] theorem State.normalizePixel_dstAddr (s : State) (src : RgbTag) :
    (s.normalizePixel src).dstAddr = s.dstAddr := by cases src <;> rfl
@[simp] theorem State.normalizePixel_dstLen (s : State) (src : RgbTag) :
    (s.normalizePixel src).dstLen = s.dstLen := by cases src <;> rfl
@[simp] theorem State.normalizePixel_result (s : State) (src : RgbTag) :
    (s.normalizePixel src).result = s.result := by cases src <;> rfl
@[simp] theorem State.normalizePixel_canPtr (s : State) (src : RgbTag) :
    (s.normalizePixel src).canPtr = s.canPtr := by cases src <;> rfl
@[simp] theorem State.normalizePixel_latched (s : State) (src : RgbTag) :
    (s.normalizePixel src).latched = s.latched := by cases src <;> rfl
@[simp] theorem State.normalizePixel_pixel (s : State) (src : RgbTag) :
    (s.normalizePixel src).pixel = s.pixel := by cases src <;> rfl
@[simp] theorem State.normalizePixel_accU (s : State) (src : RgbTag) :
    (s.normalizePixel src).accU = s.accU := by cases src <;> rfl
@[simp] theorem State.normalizePixel_accV (s : State) (src : RgbTag) :
    (s.normalizePixel src).accV = s.accV := by cases src <;> rfl
@[simp] theorem State.normalizePixel_before (s : State) (src : RgbTag) :
    (s.normalizePixel src).before = s.before := by cases src <;> rfl
@[simp] theorem State.normalizePixel_disturbed (s : State) (src : RgbTag) :
    (s.normalizePixel src).disturbed = s.disturbed := by cases src <;> rfl
@[simp] theorem State.normalizePixel_lent (s : State) (src : RgbTag) :
    (s.normalizePixel src).lent = s.lent := by cases src <;> rfl
@[simp] theorem State.normalizePixel_draws (s : State) (src : RgbTag) :
    (s.normalizePixel src).draws = s.draws := by cases src <;> rfl
@[simp] theorem State.normalizePixel_inbox (s : State) (src : RgbTag) :
    (s.normalizePixel src).inbox = s.inbox := by cases src <;> rfl
@[simp] theorem State.normalizePixel_replies (s : State) (src : RgbTag) :
    (s.normalizePixel src).replies = s.replies := by cases src <;> rfl

@[simp] theorem State.pixelStep_cfg (s : State) (c : Command) :
    (s.pixelStep c).cfg = s.cfg := by
  cases c <;> simp [State.pixelStep]
@[simp] theorem State.pixelStep_status (s : State) (c : Command) :
    (s.pixelStep c).status = s.status := by
  cases c <;> simp [State.pixelStep]
@[simp] theorem State.pixelStep_width (s : State) (c : Command) :
    (s.pixelStep c).width = s.width := by
  cases c <;> simp [State.pixelStep]
@[simp] theorem State.pixelStep_height (s : State) (c : Command) :
    (s.pixelStep c).height = s.height := by
  cases c <;> simp [State.pixelStep]
@[simp] theorem State.pixelStep_srcAddr (s : State) (c : Command) :
    (s.pixelStep c).srcAddr = s.srcAddr := by
  cases c <;> simp [State.pixelStep]
@[simp] theorem State.pixelStep_canAddr (s : State) (c : Command) :
    (s.pixelStep c).canAddr = s.canAddr := by
  cases c <;> simp [State.pixelStep]
@[simp] theorem State.pixelStep_dstAddr (s : State) (c : Command) :
    (s.pixelStep c).dstAddr = s.dstAddr := by
  cases c <;> simp [State.pixelStep]
@[simp] theorem State.pixelStep_dstLen (s : State) (c : Command) :
    (s.pixelStep c).dstLen = s.dstLen := by
  cases c <;> simp [State.pixelStep]
@[simp] theorem State.pixelStep_result (s : State) (c : Command) :
    (s.pixelStep c).result = s.result := by
  cases c <;> simp [State.pixelStep]
@[simp] theorem State.pixelStep_canPtr (s : State) (c : Command) :
    (s.pixelStep c).canPtr = s.canPtr := by
  cases c <;> simp [State.pixelStep]
@[simp] theorem State.pixelStep_latched (s : State) (c : Command) :
    (s.pixelStep c).latched = s.latched := by
  cases c <;> simp [State.pixelStep]
@[simp] theorem State.pixelStep_before (s : State) (c : Command) :
    (s.pixelStep c).before = s.before := by
  cases c <;> simp [State.pixelStep]
@[simp] theorem State.pixelStep_disturbed (s : State) (c : Command) :
    (s.pixelStep c).disturbed = s.disturbed := by
  cases c <;> simp [State.pixelStep]
@[simp] theorem State.pixelStep_lent (s : State) (c : Command) :
    (s.pixelStep c).lent = s.lent := by
  cases c <;> simp [State.pixelStep]
@[simp] theorem State.pixelStep_draws (s : State) (c : Command) :
    (s.pixelStep c).draws = s.draws := by
  cases c <;> simp [State.pixelStep]
@[simp] theorem State.pixelStep_inbox (s : State) (c : Command) :
    (s.pixelStep c).inbox = s.inbox := by
  cases c <;> simp [State.pixelStep]
@[simp] theorem State.pixelStep_replies (s : State) (c : Command) :
    (s.pixelStep c).replies = s.replies := by
  cases c <;> simp [State.pixelStep]
@[simp] theorem State.pixelStep_pixel (s : State) (c : Command) :
    (s.pixelStep c).pixel = s.pixel + 1 := by
  cases c <;> simp [State.pixelStep]

@[simp] theorem State.pixelSteps_cfg (c : Command) (k : Nat) (s : State) :
    (State.pixelSteps c k s).cfg = s.cfg := by
  induction k generalizing s with
  | zero => rfl
  | succ k ih => simp [State.pixelSteps, ih]
@[simp] theorem State.pixelSteps_status (c : Command) (k : Nat) (s : State) :
    (State.pixelSteps c k s).status = s.status := by
  induction k generalizing s with
  | zero => rfl
  | succ k ih => simp [State.pixelSteps, ih]
@[simp] theorem State.pixelSteps_width (c : Command) (k : Nat) (s : State) :
    (State.pixelSteps c k s).width = s.width := by
  induction k generalizing s with
  | zero => rfl
  | succ k ih => simp [State.pixelSteps, ih]
@[simp] theorem State.pixelSteps_height (c : Command) (k : Nat) (s : State) :
    (State.pixelSteps c k s).height = s.height := by
  induction k generalizing s with
  | zero => rfl
  | succ k ih => simp [State.pixelSteps, ih]
@[simp] theorem State.pixelSteps_srcAddr (c : Command) (k : Nat) (s : State) :
    (State.pixelSteps c k s).srcAddr = s.srcAddr := by
  induction k generalizing s with
  | zero => rfl
  | succ k ih => simp [State.pixelSteps, ih]
@[simp] theorem State.pixelSteps_canAddr (c : Command) (k : Nat) (s : State) :
    (State.pixelSteps c k s).canAddr = s.canAddr := by
  induction k generalizing s with
  | zero => rfl
  | succ k ih => simp [State.pixelSteps, ih]
@[simp] theorem State.pixelSteps_dstAddr (c : Command) (k : Nat) (s : State) :
    (State.pixelSteps c k s).dstAddr = s.dstAddr := by
  induction k generalizing s with
  | zero => rfl
  | succ k ih => simp [State.pixelSteps, ih]
@[simp] theorem State.pixelSteps_dstLen (c : Command) (k : Nat) (s : State) :
    (State.pixelSteps c k s).dstLen = s.dstLen := by
  induction k generalizing s with
  | zero => rfl
  | succ k ih => simp [State.pixelSteps, ih]
@[simp] theorem State.pixelSteps_result (c : Command) (k : Nat) (s : State) :
    (State.pixelSteps c k s).result = s.result := by
  induction k generalizing s with
  | zero => rfl
  | succ k ih => simp [State.pixelSteps, ih]
@[simp] theorem State.pixelSteps_canPtr (c : Command) (k : Nat) (s : State) :
    (State.pixelSteps c k s).canPtr = s.canPtr := by
  induction k generalizing s with
  | zero => rfl
  | succ k ih => simp [State.pixelSteps, ih]
@[simp] theorem State.pixelSteps_latched (c : Command) (k : Nat) (s : State) :
    (State.pixelSteps c k s).latched = s.latched := by
  induction k generalizing s with
  | zero => rfl
  | succ k ih => simp [State.pixelSteps, ih]
@[simp] theorem State.pixelSteps_before (c : Command) (k : Nat) (s : State) :
    (State.pixelSteps c k s).before = s.before := by
  induction k generalizing s with
  | zero => rfl
  | succ k ih => simp [State.pixelSteps, ih]
@[simp] theorem State.pixelSteps_disturbed (c : Command) (k : Nat) (s : State) :
    (State.pixelSteps c k s).disturbed = s.disturbed := by
  induction k generalizing s with
  | zero => rfl
  | succ k ih => simp [State.pixelSteps, ih]
@[simp] theorem State.pixelSteps_lent (c : Command) (k : Nat) (s : State) :
    (State.pixelSteps c k s).lent = s.lent := by
  induction k generalizing s with
  | zero => rfl
  | succ k ih => simp [State.pixelSteps, ih]
@[simp] theorem State.pixelSteps_draws (c : Command) (k : Nat) (s : State) :
    (State.pixelSteps c k s).draws = s.draws := by
  induction k generalizing s with
  | zero => rfl
  | succ k ih => simp [State.pixelSteps, ih]
@[simp] theorem State.pixelSteps_inbox (c : Command) (k : Nat) (s : State) :
    (State.pixelSteps c k s).inbox = s.inbox := by
  induction k generalizing s with
  | zero => rfl
  | succ k ih => simp [State.pixelSteps, ih]
@[simp] theorem State.pixelSteps_replies (c : Command) (k : Nat) (s : State) :
    (State.pixelSteps c k s).replies = s.replies := by
  induction k generalizing s with
  | zero => rfl
  | succ k ih => simp [State.pixelSteps, ih]

@[simp] theorem State.finish_cfg (s : State) (c : Command) :
    (s.finish c).cfg = s.cfg := by
  cases h : s.disturbed <;> simp [State.finish, h]
@[simp] theorem State.finish_status (s : State) (c : Command) :
    (s.finish c).status = s.status.completed := by
  cases h : s.disturbed <;> simp [State.finish, h]
@[simp] theorem State.finish_width (s : State) (c : Command) :
    (s.finish c).width = s.width := by
  cases h : s.disturbed <;> simp [State.finish, h]
@[simp] theorem State.finish_height (s : State) (c : Command) :
    (s.finish c).height = s.height := by
  cases h : s.disturbed <;> simp [State.finish, h]
@[simp] theorem State.finish_srcAddr (s : State) (c : Command) :
    (s.finish c).srcAddr = s.srcAddr := by
  cases h : s.disturbed <;> simp [State.finish, h]
@[simp] theorem State.finish_canAddr (s : State) (c : Command) :
    (s.finish c).canAddr = s.canAddr := by
  cases h : s.disturbed <;> simp [State.finish, h]
@[simp] theorem State.finish_dstAddr (s : State) (c : Command) :
    (s.finish c).dstAddr = s.dstAddr := by
  cases h : s.disturbed <;> simp [State.finish, h]
@[simp] theorem State.finish_dstLen (s : State) (c : Command) :
    (s.finish c).dstLen = s.dstLen := by
  cases h : s.disturbed <;> simp [State.finish, h]
@[simp] theorem State.finish_result (s : State) (c : Command) :
    (s.finish c).result = s.result := by
  cases h : s.disturbed <;> simp [State.finish, h]
@[simp] theorem State.finish_canPtr (s : State) (c : Command) :
    (s.finish c).canPtr = s.canPtrAfter c := by
  cases h : s.disturbed <;> simp [State.finish, h]
@[simp] theorem State.finish_latched (s : State) (c : Command) :
    (s.finish c).latched = s.latched := by
  cases h : s.disturbed <;> simp [State.finish, h]
@[simp] theorem State.finish_pixel (s : State) (c : Command) :
    (s.finish c).pixel = s.pixel := by
  cases h : s.disturbed <;> simp [State.finish, h]
@[simp] theorem State.finish_accU (s : State) (c : Command) :
    (s.finish c).accU = s.accU := by
  cases h : s.disturbed <;> simp [State.finish, h]
@[simp] theorem State.finish_accV (s : State) (c : Command) :
    (s.finish c).accV = s.accV := by
  cases h : s.disturbed <;> simp [State.finish, h]
@[simp] theorem State.finish_before (s : State) (c : Command) :
    (s.finish c).before = [] := by
  cases h : s.disturbed <;> simp [State.finish, h]
@[simp] theorem State.finish_disturbed (s : State) (c : Command) :
    (s.finish c).disturbed = false := by
  cases h : s.disturbed <;> simp [State.finish, h]
@[simp] theorem State.finish_lent (s : State) (c : Command) :
    (s.finish c).lent = s.lent := by
  cases h : s.disturbed <;> simp [State.finish, h]
@[simp] theorem State.finish_inbox (s : State) (c : Command) :
    (s.finish c).inbox = s.inbox := by
  cases h : s.disturbed <;> simp [State.finish, h]
@[simp] theorem State.finish_replies (s : State) (c : Command) :
    (s.finish c).replies = s.replies := by
  cases h : s.disturbed <;> simp [State.finish, h]

end Sys2Proof.Machine
end

