-- ==== Sys2Proof/Laws/Sequencer.lean ====
section
/-! SUPPORT. One lemma per shared operation that says what it can do: the checks in the spec's terms, issue, one pixel, a
run of pixels, completion, a whole command, the engine's move, and the dispatch of an input. -/

namespace Sys2Proof

@[simp] theorem command_instr (c : Command) : c.instr.command = c := by
  rcases c with _ | t | src | ⟨src, dst⟩
  · rfl
  · rcases t with t | t <;> cases t <;> rfl
  · cases src <;> rfl
  · cases src <;> cases dst <;> rfl

@[simp] theorem instr_command (i : Instr) : i.command.instr = i := by cases i <;> rfl

namespace Machine

/-! ### Checks -/

theorem inside_iff (memSize x len : Nat) : inside memSize x len = true ↔ len = 0 ∨ x + len ≤ memSize := by
  simp [inside]

theorem overlap_false_iff (x a y b : Nat) : overlap x a y b = false ↔ Apart x a y b := by
  simp only [overlap, Apart, Bool.and_eq_false_iff, decide_eq_false_iff_not]
  omega

theorem blocksFit_iff (dst : YuvTag) (w h : Nat) : blocksFit dst w h = true ↔ DimsFit dst w h := by
  cases dst <;> simp [blocksFit, subsampling, DimsFit]

theorem rangeCheck_none_iff (memSize : Nat) (src dst : Nat × Nat) :
    rangeCheck memSize src dst = none ↔
      (src.2 = 0 ∨ src.1 + src.2 ≤ memSize) ∧ (dst.2 = 0 ∨ dst.1 + dst.2 ≤ memSize) ∧
        Apart src.1 src.2 dst.1 dst.2 := by
  unfold rangeCheck
  cases h1 : inside memSize src.1 src.2 <;> cases h2 : inside memSize dst.1 dst.2 <;>
    cases h3 : overlap src.1 src.2 dst.1 dst.2 <;>
    simp_all [← inside_iff, ← overlap_false_iff]

/-- `P` as latched is `W * H`: 32 bits hold it (R24). -/
@[simp] theorem latchOf_p (s : State) (k : Word) : (s.latchOf k).p.toNat = s.pixels := by
  have hw : s.width.toNat ≤ 65535 := by have := s.width.isLt; omega
  have hh : s.height.toNat ≤ 65535 := by have := s.height.isLt; omega
  have : s.width.toNat * s.height.toNat ≤ 65535 * 65535 := Nat.mul_le_mul hw hh
  simp only [State.latchOf, State.pixels, BitVec.toNat_ofNat]
  omega

/-- A CONVERT passes its checks exactly when it is ready (R263). -/
theorem issueCheck_convert_none (s : State) (src : RgbTag) (dst : YuvTag) (k : Word)
    (h : s.status.busy = false) :
    issueCheck (.convert src dst) s.cfg (s.latchOf k) = none ↔ ConvertReady s src dst := by
  have key : issueCheck (.convert src dst) s.cfg (s.latchOf k) = none ↔
      (src, dst) ∈ s.cfg.supportedPairs ∧ (s.pixels % yuvDivisor dst = 0 ∧
        DimsFit dst s.width.toNat s.height.toNat) ∧ s.dstLen.toNat = yuvBytes dst s.pixels ∧
        rangeCheck s.cfg.memSize (sourceRange (.convert src dst) (s.latchOf k))
          (writeRange (.convert src dst) (s.latchOf k)) = none := by
    have h1 : (s.latchOf k).w = s.width := rfl
    have h2 : (s.latchOf k).h = s.height := rfl
    have h3 : (s.latchOf k).l = s.dstLen := rfl
    rw [← blocksFit_iff]
    simp only [issueCheck, latchOf_p, h1, h2, h3]
    split_ifs with a b c
    · simp_all
    · rw [Bool.or_eq_true] at b
      rcases b with b | b <;> simp_all
    · simp_all
    · simp_all
  rw [key, rangeCheck_none_iff]
  simp only [sourceRange, writeRange, latchOf_p]
  constructor
  · rintro ⟨a, ⟨b, c⟩, d, e, f, g⟩
    exact ⟨h, a, b, c, d, e, f, g⟩
  · rintro ⟨-, a, b, c, d, e, f, g⟩
    exact ⟨a, ⟨b, c⟩, d, e, f, g⟩

/-- A NORMALIZE of a packed format passes its checks exactly when it is ready (R156, R263). -/
theorem issueCheck_normalize_none (s : State) (src : RgbTag) (k : Word) (h : s.status.busy = false)
    (hs : src ≠ .rgb888) :
    issueCheck (.normalize src) s.cfg (s.latchOf k) = none ↔ NormalizeReady s src := by
  have hw : writeRange (.normalize src) (s.latchOf k) = (s.canAddr.toNat, 3 * s.pixels) := by
    cases src <;> first | exact absurd rfl hs | (simp only [writeRange, latchOf_p]; rfl)
  rw [issueCheck, rangeCheck_none_iff, hw]
  simp only [sourceRange, latchOf_p]
  constructor
  · rintro ⟨a, b, c⟩
    exact ⟨h, a, b, c⟩
  · rintro ⟨-, a, b, c⟩
    exact ⟨a, b, c⟩

/-! ### Pixels -/

/-- A NORMALIZE pixel stores three bytes, for RGB888 none; it leaves the accumulators. -/
theorem normalizePixel_mem (s : State) (src : RgbTag) :
    (s.normalizePixel src).mem =
      if src = .rgb888 then s.mem
      else storePixel s.mem (s.latched.c.toNat + 3 * s.pixel.toNat)
        (norm s.cfg s.mem src s.latched.s.toNat s.pixel.toNat) := by
  cases src <;> rfl

/-- A run of pixels, cut in two. -/
theorem pixelSteps_add (c : Command) (a b : Nat) (s : State) :
    State.pixelSteps c (a + b) s = State.pixelSteps c b (State.pixelSteps c a s) := by
  induction a generalizing s with
  | zero => simp [State.pixelSteps]
  | succ a ih => rw [Nat.succ_add]; exact ih _

/-- The last pixel of a run. -/
theorem pixelSteps_succ (c : Command) (k : Nat) (s : State) :
    State.pixelSteps c (k + 1) s = (State.pixelSteps c k s).pixelStep c :=
  pixelSteps_add c k 1 s

/-- `n` after a run of pixels. -/
theorem pixelSteps_pixel (c : Command) (k : Nat) (s : State) :
    (State.pixelSteps c k s).pixel = s.pixel + BitVec.ofNat 32 k := by
  induction k with
  | zero => simp [State.pixelSteps]
  | succ k ih =>
    rw [pixelSteps_succ, State.pixelStep_pixel, ih, BitVec.add_assoc]
    congr 1
    simp [BitVec.ofNat_add]

/-! ### Where a writer's bytes stand -/

theorem lumaOffset_lt (dst : YuvTag) (p n : Nat) (hn : n < p) (hd : p % yuvDivisor dst = 0) :
    lumaOffset dst n < yuvBytes dst p := by
  cases dst <;> simp only [lumaOffset, yuvBytes, yuvDivisor] at * <;> first | omega | (split <;> omega)

theorem chromaUOffset_lt (dst : YuvTag) (p g : Nat) (hd : p % yuvDivisor dst = 0)
    (hg : g < groupCount dst p) : chromaUOffset dst p g < yuvBytes dst p := by
  cases dst <;> simp only [chromaUOffset, yuvBytes, yuvDivisor, groupCount, subsampling] at * <;> omega

theorem chromaVOffset_lt (dst : YuvTag) (p g : Nat) (hd : p % yuvDivisor dst = 0)
    (hg : g < groupCount dst p) : chromaVOffset dst p g < yuvBytes dst p := by
  cases dst <;> simp only [chromaVOffset, yuvBytes, yuvDivisor, groupCount, subsampling] at * <;> omega

/-! ### Whole commands -/

/-- While BUSY a command is ignored (R25, R299). -/
theorem perform_busy (s : State) (c : Command) (h : s.status.busy = true) : s.perform c = s := by
  simp [State.perform, h]

/-- Issue while IDLE, by the first check that fails or the operation (R25, R263). -/
theorem begin_cases (s : State) (c : Command) :
    (∃ e, issueCheck c s.cfg (s.latchOf c.word) = some e ∧ s.begin c = s.refuse c.word e) ∨
    (issueCheck c s.cfg (s.latchOf c.word) = none ∧
      ((c = .nop ∧ s.begin c = (s.issue c.word).complete) ∨
       (∃ t, c = .reqbytes t ∧ s.begin c =
          { (s.issue c.word).complete with result := BitVec.ofNat 34 (requiredBytes t s.pixels) }) ∨
       (∃ src, c = .normalize src ∧ s.begin c = (s.issue c.word).start c) ∨
       (∃ src dst, c = .convert src dst ∧ s.begin c = (s.issue c.word).start c))) := by
  rcases h : issueCheck c s.cfg (s.latchOf c.word) with _ | e
  · refine .inr ⟨rfl, ?_⟩
    cases c with
    | nop => exact .inl ⟨rfl, by simp [State.begin, h]⟩
    | reqbytes t => exact .inr (.inl ⟨t, rfl, by simp [State.begin, h]⟩)
    | normalize src => exact .inr (.inr (.inl ⟨src, rfl, by simp [State.begin, h]⟩))
    | convert src dst => exact .inr (.inr (.inr ⟨src, dst, rfl, by simp [State.begin, h]⟩))
  · exact .inl ⟨e, rfl, by simp [State.begin, h, State.refuse]⟩

/-- A refused command, issued while IDLE: R262's entry sequence. -/
theorem perform_refused (s : State) (c : Command) (e : ErrorCode) (hb : s.status.busy = false)
    (h : issueCheck c s.cfg (s.latchOf c.word) = some e) : s.perform c = s.refuse c.word e := by
  have hbg : s.begin c = s.refuse c.word e := by simp [State.begin, h, State.refuse]
  simp [State.perform, hb, hbg, Status.refused, Status.issued]

/-- An accepted NORMALIZE or CONVERT, issued while IDLE: `P` pixels, then completion (R33, R248). -/
theorem perform_accepted (s : State) (c : Command) (hb : s.status.busy = false)
    (hc : (∃ src, c = .normalize src) ∨ ∃ src dst, c = .convert src dst)
    (h : issueCheck c s.cfg (s.latchOf c.word) = none) :
    s.perform c = (State.pixelSteps c s.pixels ((s.issue c.word).start c)).finish c := by
  have hbg : s.begin c = (s.issue c.word).start c := by
    rcases hc with ⟨src, rfl⟩ | ⟨src, dst, rfl⟩ <;> simp [State.begin, h]
  simp [State.perform, hb, hbg, Status.accepted, State.runToEnd]

/-- Every instruction's meaning is its command, performed. -/
theorem exec_instr (c : Command) (s : State) : exec c.instr s = .next (s.perform c) := by
  rcases c with _ | t | src | ⟨src, dst⟩
  · rfl
  · rcases t with t | t <;> cases t <;> rfl
  · cases src <;> rfl
  · cases src <;> cases dst <;> rfl

/-- Every instruction's meaning is its command, performed. -/
theorem exec_eq (i : Instr) (s : State) : exec i s = .next (s.perform i.command) := by
  rw [← exec_instr, instr_command]

/-- The memory after completion, if no host write disturbed the command. -/
theorem finish_mem (s : State) (c : Command) (h : s.disturbed = false) : (s.finish c).mem = s.mem := by
  simp [State.finish, h]

/-- The free draws after completion, if no host write disturbed the command. -/
theorem finish_draws (s : State) (c : Command) (h : s.disturbed = false) : (s.finish c).draws = s.draws := by
  simp [State.finish, h]

/-! ### The host's registers -/

/-- What a register keeps of a written word (R23). -/
@[simp] theorem keepBits_toNat (k : Nat) (v : Word) : (keepBits k v).toNat = v.toNat % 2 ^ k := by
  have h1 := v.isLt
  have h2 := Nat.mod_le v.toNat (2 ^ k)
  rw [keepBits, BitVec.toNat_ofNat]
  exact Nat.mod_eq_of_lt (by omega)

/-- A register of all 32 bits keeps the whole word. -/
theorem keepBits_word (v : Word) : keepBits 32 v = v := by
  apply BitVec.eq_of_toNat_eq
  rw [keepBits_toNat]
  exact Nat.mod_eq_of_lt v.isLt

/-- All a host write to a register other than CMD can do: while BUSY nothing, else one operand register, cut to its
width, or nothing (R21 to R23, R299). -/
theorem writeReg_cases (s : State) (offset : Nat) (v : Word) :
    s.writeReg offset v = s ∨
    (s.status.busy = false ∧
      (s.writeReg offset v = { s with width := (keepBits s.cfg.dimBits.val v).setWidth 16 } ∨
       s.writeReg offset v = { s with height := (keepBits s.cfg.dimBits.val v).setWidth 16 } ∨
       s.writeReg offset v = { s with srcAddr := keepBits s.cfg.aw.val v } ∨
       s.writeReg offset v = { s with canAddr := keepBits s.cfg.aw.val v } ∨
       s.writeReg offset v = { s with dstAddr := keepBits s.cfg.aw.val v } ∨
       s.writeReg offset v = { s with dstLen := v })) := by
  unfold State.writeReg
  cases hb : s.status.busy
  · simp only [Bool.false_eq_true, if_false]
    split <;> simp
  · exact .inl rfl

/-! ### The step -/

/-- A step takes the input at the head of the inbox. -/
theorem step_given (s : State) (e : Event) : step (s.given e) = serve e s := rfl

/-- With no input waiting a step is the engine's own move. -/
theorem step_no_input (s : State) (h : s.inbox = []) : step s = .next s.engineStep := by
  simp [step, serveNext, h]

/-- The engine's move. -/
theorem engineStep_cases (s : State) :
    (s.status.busy = false ∧ s.engineStep = s) ∨
    (s.status.busy = true ∧ s.running = none ∧ s.engineStep = s) ∨
    (∃ c, s.status.busy = true ∧ s.running = some c ∧ s.engineStep = s.advance c) := by
  cases hb : s.status.busy
  · exact .inl ⟨rfl, by simp [State.engineStep, hb]⟩
  · rcases hr : s.running with _ | c
    · exact .inr (.inl ⟨rfl, rfl, by simp [State.engineStep, hb, hr]⟩)
    · exact .inr (.inr ⟨c, rfl, rfl, by simp [State.engineStep, hb, hr]⟩)

/-- One move of a running command: one pixel if one is left, then completion if none is (R33). -/
theorem advance_cases (s : State) (c : Command) :
    (s.pixel.toNat < s.latched.p.toNat ∧ s.pixel.toNat + 1 < s.latched.p.toNat ∧ s.advance c = s.pixelStep c) ∨
    (s.pixel.toNat < s.latched.p.toNat ∧ s.pixel.toNat + 1 = s.latched.p.toNat ∧
      s.advance c = (s.pixelStep c).finish c) ∨
    (s.latched.p.toNat ≤ s.pixel.toNat ∧ s.advance c = s.finish c) := by
  by_cases h : s.pixel.toNat < s.latched.p.toNat
  · have hp := s.latched.p.isLt
    have h1 : (s.pixel.toNat + 1) % 4294967296 = s.pixel.toNat + 1 := Nat.mod_eq_of_lt (by omega)
    by_cases h2 : s.pixel.toNat + 1 < s.latched.p.toNat
    · refine .inl ⟨h, h2, ?_⟩
      have : ¬ s.latched.p.toNat ≤ s.pixel.toNat + 1 := by omega
      simp [State.advance, h, h1, this]
    · refine .inr (.inl ⟨h, by omega, ?_⟩)
      have : s.latched.p.toNat ≤ s.pixel.toNat + 1 := by omega
      simp [State.advance, h, h1, this]
  · have h2 : s.latched.p.toNat ≤ s.pixel.toNat := by omega
    exact .inr (.inr ⟨h2, by simp [State.advance, h, h2]⟩)

end Machine

end Sys2Proof
end

