-- ==== Sys2Proof/Laws/Groups.lean ====
section
/-! SUPPORT. The combinatorics of chroma groups: which pixels share a group, that an accumulator entry in use belongs to
one open group (the derivation of spec/45_dispatcher.md R246), and the sum over a group. -/

namespace Sys2Proof.Machine

/-- What the sequencer needs of the pixel walk of one subsampling class over `p` pixels. -/
structure GroupLaws (p : Nat) (st : Nat → GroupStep) : Prop where
  /-- a group's pixels use one accumulator entry -/
  entry_eq : ∀ m n, m < p → n < p → (st m).group = (st n).group → (st m).entry = (st n).entry
  /-- the first pixel of a group has no pixel of the group before it -/
  first_least : ∀ m n, m < n → n < p → (st n).first = true → (st m).group ≠ (st n).group
  /-- any other pixel has one -/
  first_exists : ∀ n, n < p → (st n).first = false → ∃ m, m < n ∧ (st m).group = (st n).group
  /-- the last pixel of a group has no pixel of the group after it -/
  last_greatest : ∀ m n, n < m → m < p → (st n).last = true → (st m).group ≠ (st n).group
  /-- between two pixels of a group no pixel of another group uses the group's entry -/
  entry_apart : ∀ m k n, m < k → k < n → n < p → (st m).group = (st n).group →
    (st k).entry = (st n).entry → (st k).group = (st n).group

/-- The sum of a sample over the pixels below `k` that are in group `g`. -/
def partialSum (grp : Nat → Nat) (x : Nat → Nat) (g k : Nat) : Nat :=
  ∑ m ∈ Finset.range k, if grp m = g then x m else 0

theorem partialSum_succ (grp : Nat → Nat) (x : Nat → Nat) (g k : Nat) :
    partialSum grp x g (k + 1) = partialSum grp x g k + if grp k = g then x k else 0 :=
  Finset.sum_range_succ _ _

theorem partialSum_eq_zero (grp : Nat → Nat) (x : Nat → Nat) (g k : Nat) (h : ∀ m, m < k → grp m ≠ g) :
    partialSum grp x g k = 0 :=
  Finset.sum_eq_zero fun m hm => if_neg (h m (Finset.mem_range.1 hm))

/-! ### Groups of consecutive pixels -/

theorem groupLaws_422 (p w : Nat) : GroupLaws p (groupStep .s422 w) where
  entry_eq := fun _ _ _ _ _ => rfl
  first_least := fun m n hmn _ hf => by simp only [groupStep, beq_iff_eq] at *; omega
  first_exists := fun n _ hf => ⟨n - 1, by simp only [groupStep, beq_eq_false_iff_ne] at *; omega,
    by simp only [groupStep, beq_eq_false_iff_ne] at *; omega⟩
  last_greatest := fun m n _ _ hl => by simp only [groupStep, beq_iff_eq] at *; omega
  entry_apart := fun m k n _ _ _ hg _ => by simp only [groupStep] at *; omega

theorem groupLaws_411 (p w : Nat) : GroupLaws p (groupStep .s411 w) where
  entry_eq := fun _ _ _ _ _ => rfl
  first_least := fun m n hmn _ hf => by simp only [groupStep, beq_iff_eq] at *; omega
  first_exists := fun n _ hf => ⟨n - 1, by simp only [groupStep, beq_eq_false_iff_ne] at *; omega,
    by simp only [groupStep, beq_eq_false_iff_ne] at *; omega⟩
  last_greatest := fun m n _ _ hl => by simp only [groupStep, beq_iff_eq] at *; omega
  entry_apart := fun m k n _ _ _ hg _ => by simp only [groupStep] at *; omega

/-- The sum over a pair, at its second pixel. -/
theorem partialSum_pair (x : Nat → Nat) (k : Nat) :
    partialSum (fun n => n / 2) x k (2 * k + 2) = x (2 * k) + x (2 * k + 1) := by
  have h0 : partialSum (fun n => n / 2) x k (2 * k) = 0 :=
    partialSum_eq_zero _ _ _ _ fun m hm => by omega
  have e0 : 2 * k / 2 = k := by omega
  have e1 : (2 * k + 1) / 2 = k := by omega
  simp only [partialSum_succ, h0, e0, e1, if_true, Nat.zero_add]

/-- The sum over four consecutive pixels, at the fourth. -/
theorem partialSum_four (x : Nat → Nat) (g : Nat) :
    partialSum (fun n => n / 4) x g (4 * g + 4) =
      x (4 * g) + x (4 * g + 1) + x (4 * g + 2) + x (4 * g + 3) := by
  have h0 : partialSum (fun n => n / 4) x g (4 * g) = 0 :=
    partialSum_eq_zero _ _ _ _ fun m hm => by omega
  have e0 : 4 * g / 4 = g := by omega
  have e1 : (4 * g + 1) / 4 = g := by omega
  have e2 : (4 * g + 2) / 4 = g := by omega
  have e3 : (4 * g + 3) / 4 = g := by omega
  simp only [partialSum_succ, h0, e0, e1, e2, e3, if_true, Nat.zero_add]

/-! ### Blocks -/

/-- The index of the block of `q` by `q` pixels that holds pixel `n` of an image of width `w`. -/
def blockIndex (q w n : Nat) : Nat := n / w / q * (w / q) + n % w / q

theorem blockColumn_lt (q w n : Nat) (hw : 0 < w) (hd : w % q = 0) : n % w / q < w / q := by
  have h1 := Nat.mod_lt n hw
  have h2 : w = q * (w / q) := by have := Nat.div_add_mod w q; omega
  exact Nat.div_lt_of_lt_mul (by rw [← h2]; exact h1)

/-- Two pixels share a block exactly when they share its row and its column of blocks. -/
theorem blockIndex_eq_iff (q w m n : Nat) (hw : 0 < w) (hd : w % q = 0) :
    blockIndex q w m = blockIndex q w n ↔ m / w / q = n / w / q ∧ m % w / q = n % w / q := by
  have hm := blockColumn_lt q w m hw hd
  have hn := blockColumn_lt q w n hw hd
  have hpos : 0 < w / q := Nat.zero_lt_of_lt hm
  constructor
  · intro h
    have hm1 : blockIndex q w m / (w / q) = m / w / q := by
      rw [blockIndex, Nat.mul_comm, Nat.mul_add_div hpos, Nat.div_eq_of_lt hm, Nat.add_zero]
    have hn1 : blockIndex q w n / (w / q) = n / w / q := by
      rw [blockIndex, Nat.mul_comm, Nat.mul_add_div hpos, Nat.div_eq_of_lt hn, Nat.add_zero]
    have hm2 : blockIndex q w m % (w / q) = m % w / q := by
      rw [blockIndex, Nat.mul_comm, Nat.mul_add_mod, Nat.mod_eq_of_lt hm]
    have hn2 : blockIndex q w n % (w / q) = n % w / q := by
      rw [blockIndex, Nat.mul_comm, Nat.mul_add_mod, Nat.mod_eq_of_lt hn]
    rw [← hm1, ← hn1, ← hm2, ← hn2, h]
    exact ⟨rfl, rfl⟩
  · rintro ⟨h1, h2⟩
    rw [blockIndex, blockIndex, h1, h2]

/-- Row-major order, by rows and columns. -/
theorem lt_rows (w m n : Nat) (h : m < n) : m / w < n / w ∨ (m / w = n / w ∧ m % w < n % w) := by
  have h1 : m / w ≤ n / w := Nat.div_le_div_right h.le
  rcases h1.lt_or_eq with h2 | h2
  · exact .inl h2
  · refine .inr ⟨h2, ?_⟩
    have h3 := Nat.div_add_mod m w
    have h4 := Nat.div_add_mod n w
    rw [h2] at h3
    omega

/-- The pixel at row `r`, column `c`. -/
theorem pixel_row_column (w r c : Nat) (hc : c < w) : (r * w + c) / w = r ∧ (r * w + c) % w = c := by
  have hw : 0 < w := by omega
  rw [Nat.mul_comm r w, Nat.mul_add_div hw, Nat.mul_add_mod, Nat.div_eq_of_lt hc, Nat.mod_eq_of_lt hc]
  exact ⟨rfl, rfl⟩

theorem block_first_least (q w m n : Nat) (hw : 0 < w) (hd : w % q = 0) (hmn : m < n)
    (hr : n / w % q = 0) (hc : n % w % q = 0) : blockIndex q w m ≠ blockIndex q w n := by
  intro h
  obtain ⟨h1, h2⟩ := (blockIndex_eq_iff q w m n hw hd).1 h
  have a1 := Nat.div_add_mod (n / w) q
  have a2 := Nat.div_add_mod (m / w) q
  have a3 := Nat.div_add_mod (n % w) q
  have a4 := Nat.div_add_mod (m % w) q
  rw [h1] at a2
  rw [h2] at a4
  rcases lt_rows w m n hmn with h3 | ⟨h3, h4⟩ <;> omega

theorem block_last_greatest (q w m n : Nat) (hq : 0 < q) (hw : 0 < w) (hd : w % q = 0) (hmn : n < m)
    (hr : n / w % q = q - 1) (hc : n % w % q = q - 1) : blockIndex q w m ≠ blockIndex q w n := by
  intro h
  obtain ⟨h1, h2⟩ := (blockIndex_eq_iff q w m n hw hd).1 h
  have a1 := Nat.div_add_mod (n / w) q
  have a2 := Nat.div_add_mod (m / w) q
  have a3 := Nat.div_add_mod (n % w) q
  have a4 := Nat.div_add_mod (m % w) q
  have b2 := Nat.mod_lt (m / w) hq
  have b4 := Nat.mod_lt (m % w) hq
  rw [h1] at a2
  rw [h2] at a4
  rcases lt_rows w n m hmn with h3 | ⟨h3, h4⟩ <;> omega

theorem block_first_exists (q w n : Nat) (hq : 0 < q) (hw : 0 < w) (hd : w % q = 0)
    (h : ¬(n / w % q = 0 ∧ n % w % q = 0)) : ∃ m, m < n ∧ blockIndex q w m = blockIndex q w n := by
  have a1 := Nat.div_add_mod (n / w) q
  have a3 := Nat.div_add_mod (n % w) q
  have a5 := Nat.div_add_mod n w
  have hc : q * (n % w / q) < w := by have := Nat.mod_lt n hw; omega
  obtain ⟨hr1, hc1⟩ := pixel_row_column w (q * (n / w / q)) (q * (n % w / q)) hc
  refine ⟨q * (n / w / q) * w + q * (n % w / q), ?_, ?_⟩
  · have h2 : q * (n / w / q) * w ≤ w * (n / w) := by
      rw [Nat.mul_comm w]
      exact Nat.mul_le_mul_right w (by omega)
    by_cases hr : n / w % q = 0
    · have : n % w % q ≠ 0 := fun hc => h ⟨hr, hc⟩
      omega
    · have h3 : (q * (n / w / q) + 1) * w ≤ w * (n / w) := by
        rw [Nat.mul_comm w]
        exact Nat.mul_le_mul_right w (by omega)
      rw [Nat.add_mul, Nat.one_mul] at h3
      omega
  · rw [blockIndex_eq_iff q w _ n hw hd, hr1, hc1]
    exact ⟨Nat.mul_div_cancel_left _ hq, Nat.mul_div_cancel_left _ hq⟩

theorem block_entry_apart (q w m k n : Nat) (hw : 0 < w) (hd : w % q = 0) (h1 : m < k) (h2 : k < n)
    (hg : blockIndex q w m = blockIndex q w n) (he : k % w / q = n % w / q) :
    blockIndex q w k = blockIndex q w n := by
  have hr := ((blockIndex_eq_iff q w m n hw hd).1 hg).1
  refine (blockIndex_eq_iff q w k n hw hd).2 ⟨?_, he⟩
  have h3 : m / w / q ≤ k / w / q := Nat.div_le_div_right (Nat.div_le_div_right h1.le)
  have h4 : k / w / q ≤ n / w / q := Nat.div_le_div_right (Nat.div_le_div_right h2.le)
  omega

theorem groupLaws_420 (p w : Nat) (hd : w % 2 = 0) (hw : p = 0 ∨ 0 < w) : GroupLaws p (groupStep .s420 w) := by
  rcases hw with rfl | hw
  · exact ⟨by omega, by omega, by omega, by omega, by omega⟩
  refine ⟨fun m n _ _ hg => ((blockIndex_eq_iff 2 w m n hw hd).1 hg).2, fun m n hmn _ hf => ?_,
    fun n _ hf => ?_, fun m n hmn _ hl => ?_, fun m k n h1 h2 _ hg he => ?_⟩
  · simp only [groupStep, Bool.and_eq_true, beq_iff_eq] at hf
    exact block_first_least 2 w m n hw hd hmn hf.1 hf.2
  · simp only [groupStep, Bool.and_eq_false_iff, beq_eq_false_iff_ne] at hf
    exact block_first_exists 2 w n (by omega) hw hd (by tauto)
  · simp only [groupStep, Bool.and_eq_true, beq_iff_eq] at hl
    exact block_last_greatest 2 w m n (by omega) hw hd hmn hl.1 hl.2
  · exact block_entry_apart 2 w m k n hw hd h1 h2 hg he

theorem groupLaws_410 (p w : Nat) (hd : w % 4 = 0) (hw : p = 0 ∨ 0 < w) : GroupLaws p (groupStep .s410 w) := by
  rcases hw with rfl | hw
  · exact ⟨by omega, by omega, by omega, by omega, by omega⟩
  refine ⟨fun m n _ _ hg => ((blockIndex_eq_iff 4 w m n hw hd).1 hg).2, fun m n hmn _ hf => ?_,
    fun n _ hf => ?_, fun m n hmn _ hl => ?_, fun m k n h1 h2 _ hg he => ?_⟩
  · simp only [groupStep, Bool.and_eq_true, beq_iff_eq] at hf
    exact block_first_least 4 w m n hw hd hmn hf.1 hf.2
  · simp only [groupStep, Bool.and_eq_false_iff, beq_eq_false_iff_ne] at hf
    exact block_first_exists 4 w n (by omega) hw hd (by tauto)
  · simp only [groupStep, Bool.and_eq_true, beq_iff_eq] at hl
    exact block_last_greatest 4 w m n (by omega) hw hd hmn hl.1 hl.2
  · exact block_entry_apart 4 w m k n hw hd h1 h2 hg he

/-- The sum over block `(i, j)` of an image of width `w`, at its last pixel. -/
theorem partialSum_block (q w i j : Nat) (x : Nat → Nat) (hq : 0 < q) (hd : w % q = 0) (hj : j < w / q) :
    partialSum (blockIndex q w) x (i * (w / q) + j) ((q * i + (q - 1)) * w + (q * j + (q - 1)) + 1) =
      ∑ a ∈ Finset.range q, ∑ b ∈ Finset.range q, x ((q * i + a) * w + (q * j + b)) := by
  have hw2 : w = q * (w / q) := by have := Nat.div_add_mod w q; omega
  have hcol : q * j + q ≤ w := by
    have h := Nat.mul_le_mul_left q (show j + 1 ≤ w / q from hj)
    rw [Nat.mul_add, Nat.mul_one] at h
    omega
  have hw : 0 < w := by omega
  have key : ∀ a b, a < q → b < q → ((q * i + a) * w + (q * j + b)) / w = q * i + a ∧
      ((q * i + a) * w + (q * j + b)) % w = q * j + b := fun a b _ hb =>
    pixel_row_column w (q * i + a) (q * j + b) (by omega)
  have div1 : ∀ t a, a < q → (q * t + a) / q = t := fun t a ha => by
    rw [Nat.mul_add_div hq, Nat.div_eq_of_lt ha, Nat.add_zero]
  have hidx : ∀ a b, a < q → b < q →
      blockIndex q w ((q * i + a) * w + (q * j + b)) = i * (w / q) + j := fun a b ha hb => by
    obtain ⟨h1, h2⟩ := key a b ha hb
    rw [blockIndex, h1, h2, div1 i a ha, div1 j b hb]
  have hset : (Finset.range ((q * i + (q - 1)) * w + (q * j + (q - 1)) + 1)).filter
      (fun m => blockIndex q w m = i * (w / q) + j) =
      (Finset.range q ×ˢ Finset.range q).image (fun ab => (q * i + ab.1) * w + (q * j + ab.2)) := by
    ext m
    simp only [Finset.mem_filter, Finset.mem_range, Finset.mem_image, Finset.mem_product, Prod.exists]
    constructor
    · rintro ⟨_, hm⟩
      rw [← hidx 0 0 hq hq, blockIndex_eq_iff q w _ _ hw hd] at hm
      obtain ⟨k1, k2⟩ := key 0 0 hq hq
      rw [k1, k2, div1 i 0 hq, div1 j 0 hq] at hm
      refine ⟨m / w % q, m % w % q, ⟨Nat.mod_lt _ hq, Nat.mod_lt _ hq⟩, ?_⟩
      have a1 := Nat.div_add_mod (m / w) q
      have a2 := Nat.div_add_mod (m % w) q
      rw [hm.1] at a1
      rw [hm.2] at a2
      rw [a1, a2, Nat.mul_comm]
      exact Nat.div_add_mod m w
    · rintro ⟨a, b, ⟨ha, hb⟩, rfl⟩
      refine ⟨?_, hidx a b ha hb⟩
      have : (q * i + a) * w ≤ (q * i + (q - 1)) * w := Nat.mul_le_mul_right w (by omega)
      omega
  have hinj : Set.InjOn (fun ab : Nat × Nat => (q * i + ab.1) * w + (q * j + ab.2))
      ((Finset.range q ×ˢ Finset.range q : Finset (Nat × Nat)) : Set (Nat × Nat)) := by
    rintro ⟨a, b⟩ h1 ⟨c, d⟩ h2 h
    simp only [Finset.coe_product, Finset.coe_range, Set.mem_prod, Set.mem_Iio] at h1 h2
    have h : (q * i + a) * w + (q * j + b) = (q * i + c) * w + (q * j + d) := h
    obtain ⟨k1, k2⟩ := key a b h1.1 h1.2
    obtain ⟨k3, k4⟩ := key c d h2.1 h2.2
    rw [h] at k1 k2
    have e1 : a = c := by omega
    have e2 : b = d := by omega
    rw [e1, e2]
  rw [partialSum, ← Finset.sum_filter, hset, Finset.sum_image hinj, Finset.sum_product]

end Sys2Proof.Machine
end

