-- ==== Sys2Proof/Laws/Convert.lean ====
section
/-! SUPPORT. What a run of the writer leaves in memory, for any samples: every luma byte, every finished chroma group,
nothing else (spec/45_dispatcher.md R246); and that a CONVERT's pixels are such a run. -/

namespace Sys2Proof.Machine

/-! ### The bytes of a layout are distinct -/

theorem lumaOffset_inj (dst : YuvTag) (m n : Nat) (h : lumaOffset dst m = lumaOffset dst n) : m = n := by
  cases dst <;> simp only [lumaOffset] at h <;> first | omega | (split at h <;> split at h <;> omega)

theorem chromaUOffset_inj (dst : YuvTag) (p g e : Nat) (h : chromaUOffset dst p g = chromaUOffset dst p e) : g = e := by
  cases dst <;> simp only [chromaUOffset] at h <;> omega

theorem chromaVOffset_inj (dst : YuvTag) (p g e : Nat) (h : chromaVOffset dst p g = chromaVOffset dst p e) : g = e := by
  cases dst <;> simp only [chromaVOffset] at h <;> omega

theorem lumaOffset_ne_U (dst : YuvTag) (p n g : Nat) (hn : n < p) : lumaOffset dst n ≠ chromaUOffset dst p g := by
  cases dst <;> simp only [lumaOffset, chromaUOffset] <;> first | omega | (split <;> omega)

theorem lumaOffset_ne_V (dst : YuvTag) (p n g : Nat) (hn : n < p) : lumaOffset dst n ≠ chromaVOffset dst p g := by
  cases dst <;> simp only [lumaOffset, chromaVOffset] <;> first | omega | (split <;> omega)

theorem chromaUOffset_ne_V (dst : YuvTag) (p g e : Nat) (hd : p % yuvDivisor dst = 0) (hg : g < groupCount dst p)
    (he : e < groupCount dst p) : chromaUOffset dst p g ≠ chromaVOffset dst p e := by
  cases dst <;> simp only [chromaUOffset, chromaVOffset, yuvDivisor, groupCount, subsampling] at * <;> omega

/-! ### A run of the writer -/

/-- The writer run over pixels `0 .. k-1` of samples `x`. -/
def writerRun (dst : YuvTag) (w p d : Nat) (x : Nat → Yuv) : Nat → WriterState → WriterState
  | 0, t => t
  | k + 1, t => writePixel dst w p d k (x k) (writerRun dst w p d x k t)

/-- A run depends on the samples of its pixels only. -/
theorem writerRun_congr (dst : YuvTag) (w p d : Nat) (x y : Nat → Yuv) (k : Nat) (t : WriterState)
    (h : ∀ n, n < k → x n = y n) : writerRun dst w p d x k t = writerRun dst w p d y k t := by
  induction k with
  | zero => rfl
  | succ k ih => rw [writerRun, writerRun, ih fun n hn => h n (by omega), h k (by omega)]

/-- What one pixel of a subsampled target does. -/
theorem writePixel_subsampled (dst : YuvTag) (w p d n : Nat) (x : Yuv) (t : WriterState)
    (h : subsampling dst ≠ .s444) :
    writePixel dst w p d n x t =
      writeChroma dst p d (groupStep (subsampling dst) w n) x
        { t with mem := memWrite t.mem (d + lumaOffset dst n) x.y } := by
  unfold writePixel
  cases hs : subsampling dst <;> first | exact absurd hs h | rfl

/-- All the chroma of one pixel of a subsampled target can do: the accumulators always; the memory at a group's last pixel
alone (R246). -/
theorem writeChroma_eq (dst : YuvTag) (p d : Nat) (g : GroupStep) (x : Yuv) (t : WriterState) :
    (writeChroma dst p d g x t).accU = sparseWrite t.accU g.entry (accumulated g t.accU x.u) ∧
    (writeChroma dst p d g x t).accV = sparseWrite t.accV g.entry (accumulated g t.accV x.v) ∧
    (g.last = false → (writeChroma dst p d g x t).mem = t.mem) ∧
    (g.last = true → (writeChroma dst p d g x t).mem =
      memWrite (memWrite t.mem (d + chromaUOffset dst p g.group) (averageByte (accumulated g t.accU x.u) g.shift))
        (d + chromaVOffset dst p g.group) (averageByte (accumulated g t.accV x.v) g.shift)) := by
  cases h : g.last <;> simp [writeChroma, h]

/-- The emitted byte as a number: the sum shifted right, its low 8 bits (R179). -/
theorem averageByte_toNat (sum : BitVec 12) (shift : Nat) :
    (averageByte sum shift).toNat = sum.toNat / 2 ^ shift % 256 := by
  simp [averageByte, BitVec.toNat_ushiftRight, Nat.shiftRight_eq_div_pow]

/-- What one pixel of a 4:4:4 target does. -/
theorem writePixel_full (dst : YuvTag) (w p d n : Nat) (x : Yuv) (t : WriterState)
    (h : subsampling dst = .s444) :
    writePixel dst w p d n x t =
      writeFullChroma dst p d n x { t with mem := memWrite t.mem (d + lumaOffset dst n) x.y } := by
  unfold writePixel
  rw [h]

/-- After `k` pixels of a 4:4:4 target: the luma and chroma bytes of those pixels, the other bytes and the accumulators
as before. -/
theorem writerRun_full (dst : YuvTag) (w p d : Nat) (x : Nat → Yuv) (k : Nat) (t : WriterState)
    (hc : subsampling dst = .s444) (hk : k ≤ p) :
    let r := writerRun dst w p d x k t
    r.accU = t.accU ∧ r.accV = t.accV ∧ SameOutside t.mem r.mem d (yuvBytes dst p) ∧
    ∀ n, n < k → memRead r.mem (d + lumaOffset dst n) = (x n).y ∧
      memRead r.mem (d + chromaUOffset dst p n) = (x n).u ∧ memRead r.mem (d + chromaVOffset dst p n) = (x n).v := by
  have hd : p % yuvDivisor dst = 0 := by cases dst <;> simp_all [subsampling, yuvDivisor, Nat.mod_one]
  have hg : groupCount dst p = p := by simp only [groupCount, hc]
  induction k with
  | zero => exact ⟨rfl, rfl, fun _ _ => rfl, fun _ h => by omega⟩
  | succ k ih =>
    obtain ⟨i1, i2, i3, i4⟩ := ih (by omega)
    simp only [writerRun, writePixel_full dst w p d k (x k) _ hc, writeFullChroma]
    refine ⟨i1, i2, fun a ha => ?_, fun n hn => ?_⟩
    · have h1 := lumaOffset_lt dst p k (by omega) hd
      have h2 := chromaUOffset_lt dst p k hd (by omega)
      have h3 := chromaVOffset_lt dst p k hd (by omega)
      rw [memRead_write_other _ _ _ _ (by omega), memRead_write_other _ _ _ _ (by omega),
        memRead_write_other _ _ _ _ (by omega)]
      exact i3 a ha
    · have l1 := lumaOffset_ne_U dst p n k (by omega)
      have l2 := lumaOffset_ne_V dst p n k (by omega)
      have l3 := lumaOffset_ne_U dst p k n (by omega)
      have l4 := lumaOffset_ne_V dst p k n (by omega)
      have l5 := chromaUOffset_ne_V dst p n k hd (by omega) (by omega)
      have l6 := chromaUOffset_ne_V dst p k n hd (by omega) (by omega)
      rcases Nat.lt_succ_iff_lt_or_eq.1 hn with hn | rfl
      · obtain ⟨j1, j2, j3⟩ := i4 n hn
        have m1 : lumaOffset dst n ≠ lumaOffset dst k := fun h => by have := lumaOffset_inj dst n k h; omega
        have m2 : chromaUOffset dst p n ≠ chromaUOffset dst p k := fun h => by
          have := chromaUOffset_inj dst p n k h; omega
        have m3 : chromaVOffset dst p n ≠ chromaVOffset dst p k := fun h => by
          have := chromaVOffset_inj dst p n k h; omega
        simp only [memRead_write, Nat.add_left_cancel_iff, l1, l2, l3.symm, l4.symm, l5, l6.symm, m1, m2, m3, if_false]
        exact ⟨j1, j2, j3⟩
      · simp only [memRead_write, Nat.add_left_cancel_iff, l1, l2, l5, if_false, if_true, and_self]

/-- Adding a sample to a sum held in 12 bits. -/
theorem sum_add (n : Nat) (x : Byte) : BitVec.ofNat 12 n + x.setWidth 12 = BitVec.ofNat 12 (n + x.toNat) := by
  apply BitVec.eq_of_toNat_eq
  simp only [BitVec.toNat_add, BitVec.toNat_ofNat, BitVec.toNat_setWidth]
  omega

theorem sum_seed (x : Byte) : x.setWidth 12 = BitVec.ofNat 12 x.toNat := by
  apply BitVec.eq_of_toNat_eq
  simp only [BitVec.toNat_ofNat, BitVec.toNat_setWidth]

/-- The sum over the pixels below `k` of pixel `n`'s group. -/
def groupSum (cls : Subsampling) (w : Nat) (x : Nat → Byte) (n k : Nat) : BitVec 12 :=
  BitVec.ofNat 12 (partialSum (fun m => (groupStep cls w m).group) (fun m => (x m).toNat) (groupStep cls w n).group k)

/-- After `k` pixels the entry of every group that no other group has used since holds the group's sum. -/
def AccHolds (cls : Subsampling) (w : Nat) (x : Nat → Byte) (k : Nat) (acc : List (Nat × BitVec 12)) : Prop :=
  ∀ m, m < k → (∀ j, m < j → j < k → (groupStep cls w j).entry = (groupStep cls w m).entry →
      (groupStep cls w j).group = (groupStep cls w m).group) →
    sparseRead acc (groupStep cls w m).entry = groupSum cls w x m k

/-- Seeding or adding at pixel `k` gives its group's sum. -/
theorem accumulated_eq (cls : Subsampling) (w p k : Nat) (x : Nat → Byte) (acc : List (Nat × BitVec 12))
    (G : GroupLaws p (groupStep cls w)) (hk : k < p) (h : AccHolds cls w x k acc) :
    accumulated (groupStep cls w k) acc (x k) = groupSum cls w x k (k + 1) := by
  rw [groupSum, partialSum_succ, if_pos rfl, accumulated]
  cases hf : (groupStep cls w k).first
  · obtain ⟨m, hm, hg⟩ := G.first_exists k hk hf
    have he := G.entry_eq m k (by omega) hk hg
    have := h m hm fun j h1 h2 h3 => by
      rw [hg]
      exact G.entry_apart m j k h1 h2 hk hg (h3.trans he)
    rw [he, groupSum, hg] at this
    rw [this, sum_add]
    rfl
  · rw [partialSum_eq_zero _ _ _ _ fun m hm => G.first_least m k hm hk hf, Nat.zero_add, sum_seed]
    rfl

theorem accHolds_succ (cls : Subsampling) (w p k : Nat) (x : Nat → Byte) (acc : List (Nat × BitVec 12))
    (G : GroupLaws p (groupStep cls w)) (hk : k < p) (h : AccHolds cls w x k acc) :
    AccHolds cls w x (k + 1)
      (sparseWrite acc (groupStep cls w k).entry (accumulated (groupStep cls w k) acc (x k))) := by
  intro m hm ha
  rw [sparseRead_write]
  by_cases he : (groupStep cls w m).entry = (groupStep cls w k).entry
  · have hg : (groupStep cls w k).group = (groupStep cls w m).group := by
      rcases Nat.lt_succ_iff_lt_or_eq.1 hm with h1 | rfl
      · exact ha k h1 (by omega) he.symm
      · rfl
    rw [if_pos he, accumulated_eq cls w p k x acc G hk h, groupSum, groupSum, hg]
  · have hmk : m < k := by
      rcases Nat.lt_succ_iff_lt_or_eq.1 hm with h1 | rfl
      · exact h1
      · exact absurd rfl he
    have hg : (groupStep cls w k).group ≠ (groupStep cls w m).group := fun hg =>
      he (G.entry_eq m k (by omega) hk hg.symm)
    rw [if_neg he, h m hmk fun j h1 h2 => ha j h1 (by omega), groupSum, groupSum, partialSum_succ, if_neg hg]
    rfl

/-- After `k` pixels of a subsampled target: the luma bytes of those pixels, both averages of every group finished, the
sums of the open groups, every other byte as before. -/
theorem writerRun_subsampled (dst : YuvTag) (w p d : Nat) (x : Nat → Yuv) (k : Nat) (t : WriterState)
    (hc : subsampling dst ≠ .s444) (hd : p % yuvDivisor dst = 0)
    (G : GroupLaws p (groupStep (subsampling dst) w))
    (hg : ∀ n, n < p → (groupStep (subsampling dst) w n).last = true →
      (groupStep (subsampling dst) w n).group < groupCount dst p) (hk : k ≤ p) :
    let r := writerRun dst w p d x k t
    let st := groupStep (subsampling dst) w
    AccHolds (subsampling dst) w (fun n => (x n).u) k r.accU ∧
    AccHolds (subsampling dst) w (fun n => (x n).v) k r.accV ∧
    SameOutside t.mem r.mem d (yuvBytes dst p) ∧
    (∀ n, n < k → memRead r.mem (d + lumaOffset dst n) = (x n).y) ∧
    ∀ n, n < k → (st n).last = true →
      memRead r.mem (d + chromaUOffset dst p (st n).group) =
        averageByte (groupSum (subsampling dst) w (fun m => (x m).u) n (n + 1)) (st n).shift ∧
      memRead r.mem (d + chromaVOffset dst p (st n).group) =
        averageByte (groupSum (subsampling dst) w (fun m => (x m).v) n (n + 1)) (st n).shift := by
  induction k with
  | zero => exact ⟨fun _ h => by omega, fun _ h => by omega, fun _ _ => rfl, fun _ h => by omega, fun _ h => by omega⟩
  | succ k ih =>
    obtain ⟨i1, i2, i3, i4, i5⟩ := ih (by omega)
    have aU := accumulated_eq _ w p k _ _ G (by omega) i1
    have aV := accumulated_eq _ w p k _ _ G (by omega) i2
    have sU := accHolds_succ _ w p k _ _ G (by omega) i1
    have sV := accHolds_succ _ w p k _ _ G (by omega) i2
    have o1 := lumaOffset_lt dst p k (by omega) hd
    simp only [writerRun, writePixel_subsampled dst w p d k (x k) _ hc, writeChroma]
    have luma : ∀ n, n < k + 1 → memRead (memWrite (writerRun dst w p d x k t).mem (d + lumaOffset dst k) (x k).y)
        (d + lumaOffset dst n) = (x n).y := fun n hn => by
      rw [memRead_write]
      rcases Nat.lt_succ_iff_lt_or_eq.1 hn with hn | rfl
      · have m1 : lumaOffset dst n ≠ lumaOffset dst k := fun h => by have := lumaOffset_inj dst n k h; omega
        rw [if_neg (by omega)]
        exact i4 n hn
      · rw [if_pos rfl]
    cases hl : (groupStep (subsampling dst) w k).last
    · simp only [Bool.false_eq_true, if_false]
      refine ⟨sU, sV, fun a ha => ?_, luma, fun n hn hln => ?_⟩
      · rw [memRead_write_other _ _ _ _ (by omega)]
        exact i3 a ha
      · have hnk : n < k := by
          rcases Nat.lt_succ_iff_lt_or_eq.1 hn with h1 | rfl
          · exact h1
          · rw [hl] at hln; exact absurd hln Bool.false_ne_true
        have m1 := lumaOffset_ne_U dst p k (groupStep (subsampling dst) w n).group (by omega)
        have m2 := lumaOffset_ne_V dst p k (groupStep (subsampling dst) w n).group (by omega)
        rw [memRead_write_other _ _ _ _ (by omega), memRead_write_other _ _ _ _ (by omega)]
        exact i5 n hnk hln
    · simp only [if_true]
      have hgk := hg k (by omega) hl
      have o2 := chromaUOffset_lt dst p _ hd hgk
      have o3 := chromaVOffset_lt dst p _ hd hgk
      refine ⟨sU, sV, fun a ha => ?_, fun n hn => ?_, fun n hn hln => ?_⟩
      · rw [memRead_write_other _ _ _ _ (by omega), memRead_write_other _ _ _ _ (by omega),
          memRead_write_other _ _ _ _ (by omega)]
        exact i3 a ha
      · have m1 := lumaOffset_ne_U dst p n (groupStep (subsampling dst) w k).group (by omega)
        have m2 := lumaOffset_ne_V dst p n (groupStep (subsampling dst) w k).group (by omega)
        rw [memRead_write_other _ _ _ _ (by omega), memRead_write_other _ _ _ _ (by omega)]
        exact luma n hn
      · have hgn := hg n (by omega) hln
        have u1 := chromaUOffset_ne_V dst p _ _ hd hgn hgk
        have u2 := chromaUOffset_ne_V dst p _ _ hd hgk hgn
        rcases Nat.lt_succ_iff_lt_or_eq.1 hn with hnk | rfl
        · have ne : (groupStep (subsampling dst) w k).group ≠ (groupStep (subsampling dst) w n).group :=
            G.last_greatest k n hnk (by omega) hln
          have m1 := lumaOffset_ne_U dst p k (groupStep (subsampling dst) w n).group (by omega)
          have m2 := lumaOffset_ne_V dst p k (groupStep (subsampling dst) w n).group (by omega)
          have m3 : chromaUOffset dst p (groupStep (subsampling dst) w k).group ≠
              chromaUOffset dst p (groupStep (subsampling dst) w n).group := fun h => ne (chromaUOffset_inj dst p _ _ h)
          have m4 : chromaVOffset dst p (groupStep (subsampling dst) w k).group ≠
              chromaVOffset dst p (groupStep (subsampling dst) w n).group := fun h => ne (chromaVOffset_inj dst p _ _ h)
          obtain ⟨j1, j2⟩ := i5 n hnk hln
          constructor
          · rw [memRead_write_other _ _ _ _ (by omega), memRead_write_other _ _ _ _ (by omega),
              memRead_write_other _ _ _ _ (by omega)]
            exact j1
          · rw [memRead_write_other _ _ _ _ (by omega), memRead_write_other _ _ _ _ (by omega),
              memRead_write_other _ _ _ _ (by omega)]
            exact j2
        · constructor
          · rw [memRead_write_other _ _ _ _ (by omega), memRead_write_same, aU]
          · rw [memRead_write_same, aV]

/-! ### The group laws of every target that fits -/

theorem groupLaws (dst : YuvTag) (w h : Nat) (hf : DimsFit dst w h) (hc : subsampling dst ≠ .s444) :
    GroupLaws (w * h) (groupStep (subsampling dst) w) := by
  have hw : w * h = 0 ∨ 0 < w := by
    rcases Nat.eq_zero_or_pos w with rfl | h
    · exact .inl (Nat.zero_mul h)
    · exact .inr h
  cases dst <;> simp only [subsampling, DimsFit] at *
  all_goals first
    | exact absurd rfl hc
    | exact groupLaws_422 _ _
    | exact groupLaws_411 _ _
    | exact groupLaws_420 _ _ hf.1 hw
    | exact groupLaws_410 _ _ hf.1 hw

theorem blockIndex_lt (q w h n : Nat) (hq : 0 < q) (hdw : w % q = 0) (hdh : h % q = 0) (hn : n < w * h) :
    blockIndex q w n < w * h / (q * q) := by
  have hw : 0 < w := by
    rcases Nat.eq_zero_or_pos w with rfl | h
    · omega
    · exact h
  have hj := blockColumn_lt q w n hw hdw
  have hr : n / w < h := Nat.div_lt_of_lt_mul hn
  have e1 : w = q * (w / q) := by have := Nat.div_add_mod w q; omega
  have e2 : h = q * (h / q) := by have := Nat.div_add_mod h q; omega
  have hi : n / w / q < h / q := Nat.div_lt_of_lt_mul (by rw [← e2]; exact hr)
  have e3 : w * h / (q * q) = (h / q) * (w / q) := by
    have : w * h = q * q * ((h / q) * (w / q)) := by
      calc w * h = (q * (w / q)) * (q * (h / q)) := by rw [← e1, ← e2]
        _ = q * q * ((h / q) * (w / q)) := by ring
    rw [this, Nat.mul_div_cancel_left _ (Nat.mul_pos hq hq)]
  rw [e3, blockIndex]
  have := Nat.mul_le_mul_right (w / q) (show n / w / q + 1 ≤ h / q from hi)
  rw [Nat.add_mul, Nat.one_mul] at this
  omega

theorem group_lt (dst : YuvTag) (w h n : Nat) (hf : DimsFit dst w h) (hd : w * h % yuvDivisor dst = 0)
    (hn : n < w * h) : (groupStep (subsampling dst) w n).group < groupCount dst (w * h) := by
  have b2 := blockIndex_lt 2 w h n (by omega)
  have b4 := blockIndex_lt 4 w h n (by omega)
  simp only [blockIndex] at b2 b4
  cases dst <;> simp only [subsampling, DimsFit, groupCount, groupStep, yuvDivisor] at * <;>
    omega

/-! ### A CONVERT's pixels are a run of the writer -/

/-- `Norm` reads the source range only (spec/20_memory.md R66). -/
theorem norm_congr (cfg : Config) (m m' : List Host.Cell) (src : RgbTag) (s p n : Nat) (hn : n < p)
    (h : ∀ a, s ≤ a → a < s + rgbBytes src p → memRead m' a = memRead m a) :
    norm cfg m' src s n = norm cfg m src s n := by
  cases src <;> simp only [rgbBytes] at h
  · simp only [norm, pixelAt]
    rw [h _ (by omega) (by omega), h _ (by omega) (by omega), h _ (by omega) (by omega)]
  · simp only [norm, memRead16]
    rw [h _ (by omega) (by omega), h _ (by omega) (by omega)]
  · simp only [norm, memRead16]
    rw [h _ (by omega) (by omega), h _ (by omega) (by omega)]
  · have e1 : ∀ j : Fin 4, n % 2 = 0 → nibbleHigh m' (s + 3 * (n / 2)) j = nibbleHigh m (s + 3 * (n / 2)) j :=
      fun j hz => by
        have := j.isLt
        rw [nibbleHigh, nibbleHigh, h _ (by omega) (by omega)]
    have e2 : ∀ j : Fin 6, n % 2 ≠ 0 → nibbleHigh m' (s + 3 * (n / 2)) j = nibbleHigh m (s + 3 * (n / 2)) j :=
      fun j hz => by
        have := j.isLt
        rw [nibbleHigh, nibbleHigh, h _ (by omega) (by omega)]
    simp only [norm, unpack444]
    split <;> rename_i hz
    · rw [e1 _ hz, e1 _ hz, e1 _ hz]
    · rw [e2 _ hz, e2 _ hz, e2 _ hz]
  · simp only [norm, pixelAt]
    rw [h _ (by omega) (by omega), h _ (by omega) (by omega), h _ (by omega) (by omega)]

/-- A run of the writer changes no byte outside its target's size, whatever the samples (R68). -/
theorem writerRun_sameOutside (dst : YuvTag) (w h d : Nat) (x : Nat → Yuv) (k : Nat) (t : WriterState)
    (hf : DimsFit dst w h) (hd : w * h % yuvDivisor dst = 0) (hk : k ≤ w * h) :
    SameOutside t.mem (writerRun dst w (w * h) d x k t).mem d (yuvBytes dst (w * h)) := by
  by_cases hc : subsampling dst = .s444
  · exact (writerRun_full dst w _ d x k t hc hk).2.2.1
  · exact (writerRun_subsampled dst w _ d x k t hc hd (groupLaws dst w h hf hc)
      (fun n hn _ => group_lt dst w h n hf hd hn) hk).2.2.1

/-- The state after the first `k` pixels of a CONVERT whose source and destination are apart: the writer's run over the
samples of the source as it was (R241, R246, R69). -/
theorem pixelSteps_convert (s : State) (src : RgbTag) (dst : YuvTag) (k : Nat) (hz : s.pixel = 0)
    (hp : s.latched.p.toNat = s.latched.w.toNat * s.latched.h.toNat)
    (hf : DimsFit dst s.latched.w.toNat s.latched.h.toNat)
    (hd : s.latched.p.toNat % yuvDivisor dst = 0)
    (ha : Apart s.latched.s.toNat (rgbBytes src s.latched.p.toNat) s.latched.d.toNat (yuvBytes dst s.latched.p.toNat))
    (hk : k ≤ s.latched.p.toNat) :
    let r := writerRun dst s.latched.w.toNat s.latched.p.toNat s.latched.d.toNat
      (fun n => pixelYuv s.cfg.matrix (norm s.cfg s.mem src s.latched.s.toNat n)) k
      { mem := s.mem, accU := s.accU, accV := s.accV }
    State.pixelSteps (.convert src dst) k s =
      { s with pixel := BitVec.ofNat 32 k, mem := r.mem, accU := r.accU, accV := r.accV } := by
  induction k with
  | zero =>
    have : s.pixel = BitVec.ofNat 32 0 := hz
    simp only [State.pixelSteps, writerRun, ← this]
  | succ k ih =>
    have hlt := s.latched.p.isLt
    have hkk : (BitVec.ofNat 32 k).toNat = k := by rw [BitVec.toNat_ofNat]; omega
    have hn : norm s.cfg (writerRun dst s.latched.w.toNat s.latched.p.toNat s.latched.d.toNat
        (fun n => pixelYuv s.cfg.matrix (norm s.cfg s.mem src s.latched.s.toNat n)) k
        { mem := s.mem, accU := s.accU, accV := s.accV }).mem src s.latched.s.toNat k =
        norm s.cfg s.mem src s.latched.s.toNat k := by
      refine norm_congr _ _ _ _ _ s.latched.p.toNat _ (by omega) fun a h1 h2 => ?_
      have so := writerRun_sameOutside dst s.latched.w.toNat s.latched.h.toNat s.latched.d.toNat
        (fun n => pixelYuv s.cfg.matrix (norm s.cfg s.mem src s.latched.s.toNat n)) k
        { mem := s.mem, accU := s.accU, accV := s.accV } hf (by rw [← hp]; exact hd) (by omega)
      rw [← hp] at so
      refine so a fun hin => ?_
      unfold Apart at ha
      omega
    have h1 : BitVec.ofNat 32 k + 1 = BitVec.ofNat 32 (k + 1) := by rw [BitVec.ofNat_add]; rfl
    rw [pixelSteps_succ, ih (by omega)]
    simp only [State.pixelStep, State.convertPixel, State.presentYuv, hkk, hn, h1, writerRun]

/-- A CONVERT that is ready, performed: the state it leaves, with the writer's run over all its pixels. -/
theorem perform_convert (s : State) (src : RgbTag) (dst : YuvTag) (h : ConvertReady s src dst) :
    let r := writerRun dst s.width.toNat s.pixels s.dstAddr.toNat (s.yuvAt src) s.pixels
      { mem := s.mem, accU := s.accU, accV := s.accV }
    CompletedFrame s (s.perform (.convert src dst)) (.convert src dst) ∧
    (s.perform (.convert src dst)).canPtr = s.canPtr ∧
    (s.perform (.convert src dst)).mem = r.mem ∧ (s.perform (.convert src dst)).accU = r.accU ∧
    (s.perform (.convert src dst)).accV = r.accV := by
  have hc := (issueCheck_convert_none s src dst (Command.convert src dst).word h.idle).2 h
  have hl := latchOf_p s (Command.convert src dst).word
  have key := pixelSteps_convert ((s.issue (Command.convert src dst).word).start (.convert src dst)) src dst s.pixels
    rfl hl h.dims
    (by simp only [State.start_latched, State.issue_latched, hl]; exact h.divides)
    (by simp only [State.start_latched, State.issue_latched, hl]; exact h.apart)
    (by simp only [State.start_latched, State.issue_latched, hl]; exact Nat.le_refl _)
  simp only [State.start_latched, State.issue_latched, hl] at key
  rw [perform_accepted s _ h.idle (.inr ⟨src, dst, rfl⟩) hc, key]
  have hi := h.idle
  refine ⟨?_, rfl, rfl, rfl, rfl⟩
  constructor
  case status => simp [State.finish, State.complete, Status.completed, Status.doneOnly, State.start, State.issue,
      Status.accepted, Status.issued]
  case pixel =>
    have hlt := (s.latchOf (Command.convert src dst).word).p.isLt
    rw [hl] at hlt
    change (BitVec.ofNat 32 s.pixels).toNat = s.pixels
    rw [BitVec.toNat_ofNat]
    omega
  all_goals rfl

end Sys2Proof.Machine
end

