-- ==== Sys2Proof/Laws/PerInstr.lean ====
section
/-! SUPPORT. Statements made per instruction, about the instruction as syntax. -/

namespace Sys2Proof

/-- The fields of an instruction's word are the fields its command stands for, they pass every check of R92, and the
instruction is the row of its command. -/
def Laws.WordRoundTrip.Statement (i : Instr) : Prop :=
  Fields.ofWord (encode i) = i.command.fields ∧ i.wellFormed = true ∧ i.command.instr = i

theorem Laws.WordRoundTrip.nop : Laws.WordRoundTrip.Statement .nop := by
  unfold Laws.WordRoundTrip.Statement; decide

theorem Laws.WordRoundTrip.reqbytesRGB888 : Laws.WordRoundTrip.Statement .reqbytesRGB888 := by
  unfold Laws.WordRoundTrip.Statement; decide

theorem Laws.WordRoundTrip.reqbytesRGB565 : Laws.WordRoundTrip.Statement .reqbytesRGB565 := by
  unfold Laws.WordRoundTrip.Statement; decide

theorem Laws.WordRoundTrip.reqbytesRGB555 : Laws.WordRoundTrip.Statement .reqbytesRGB555 := by
  unfold Laws.WordRoundTrip.Statement; decide

theorem Laws.WordRoundTrip.reqbytesRGB444 : Laws.WordRoundTrip.Statement .reqbytesRGB444 := by
  unfold Laws.WordRoundTrip.Statement; decide

theorem Laws.WordRoundTrip.reqbytesRGB888X : Laws.WordRoundTrip.Statement .reqbytesRGB888X := by
  unfold Laws.WordRoundTrip.Statement; decide

theorem Laws.WordRoundTrip.reqbytesNV24 : Laws.WordRoundTrip.Statement .reqbytesNV24 := by
  unfold Laws.WordRoundTrip.Statement; decide

theorem Laws.WordRoundTrip.reqbytesNV42 : Laws.WordRoundTrip.Statement .reqbytesNV42 := by
  unfold Laws.WordRoundTrip.Statement; decide

theorem Laws.WordRoundTrip.reqbytesYUY2 : Laws.WordRoundTrip.Statement .reqbytesYUY2 := by
  unfold Laws.WordRoundTrip.Statement; decide

theorem Laws.WordRoundTrip.reqbytesYVYU : Laws.WordRoundTrip.Statement .reqbytesYVYU := by
  unfold Laws.WordRoundTrip.Statement; decide

theorem Laws.WordRoundTrip.reqbytesUYVY : Laws.WordRoundTrip.Statement .reqbytesUYVY := by
  unfold Laws.WordRoundTrip.Statement; decide

theorem Laws.WordRoundTrip.reqbytesVYUY : Laws.WordRoundTrip.Statement .reqbytesVYUY := by
  unfold Laws.WordRoundTrip.Statement; decide

theorem Laws.WordRoundTrip.reqbytesP422 : Laws.WordRoundTrip.Statement .reqbytesP422 := by
  unfold Laws.WordRoundTrip.Statement; decide

theorem Laws.WordRoundTrip.reqbytesYV12 : Laws.WordRoundTrip.Statement .reqbytesYV12 := by
  unfold Laws.WordRoundTrip.Statement; decide

theorem Laws.WordRoundTrip.reqbytesYU12 : Laws.WordRoundTrip.Statement .reqbytesYU12 := by
  unfold Laws.WordRoundTrip.Statement; decide

theorem Laws.WordRoundTrip.reqbytesNV12 : Laws.WordRoundTrip.Statement .reqbytesNV12 := by
  unfold Laws.WordRoundTrip.Statement; decide

theorem Laws.WordRoundTrip.reqbytesNV21 : Laws.WordRoundTrip.Statement .reqbytesNV21 := by
  unfold Laws.WordRoundTrip.Statement; decide

theorem Laws.WordRoundTrip.reqbytesY41P : Laws.WordRoundTrip.Statement .reqbytesY41P := by
  unfold Laws.WordRoundTrip.Statement; decide

theorem Laws.WordRoundTrip.reqbytesP411 : Laws.WordRoundTrip.Statement .reqbytesP411 := by
  unfold Laws.WordRoundTrip.Statement; decide

theorem Laws.WordRoundTrip.reqbytesYVU9 : Laws.WordRoundTrip.Statement .reqbytesYVU9 := by
  unfold Laws.WordRoundTrip.Statement; decide

theorem Laws.WordRoundTrip.reqbytesYUV9 : Laws.WordRoundTrip.Statement .reqbytesYUV9 := by
  unfold Laws.WordRoundTrip.Statement; decide

theorem Laws.WordRoundTrip.normalizeRGB888 : Laws.WordRoundTrip.Statement .normalizeRGB888 := by
  unfold Laws.WordRoundTrip.Statement; decide

theorem Laws.WordRoundTrip.normalizeRGB565 : Laws.WordRoundTrip.Statement .normalizeRGB565 := by
  unfold Laws.WordRoundTrip.Statement; decide

theorem Laws.WordRoundTrip.normalizeRGB555 : Laws.WordRoundTrip.Statement .normalizeRGB555 := by
  unfold Laws.WordRoundTrip.Statement; decide

theorem Laws.WordRoundTrip.normalizeRGB444 : Laws.WordRoundTrip.Statement .normalizeRGB444 := by
  unfold Laws.WordRoundTrip.Statement; decide

theorem Laws.WordRoundTrip.normalizeRGB888X : Laws.WordRoundTrip.Statement .normalizeRGB888X := by
  unfold Laws.WordRoundTrip.Statement; decide

theorem Laws.WordRoundTrip.convertRGB888NV24 : Laws.WordRoundTrip.Statement .convertRGB888NV24 := by
  unfold Laws.WordRoundTrip.Statement; decide

theorem Laws.WordRoundTrip.convertRGB565NV24 : Laws.WordRoundTrip.Statement .convertRGB565NV24 := by
  unfold Laws.WordRoundTrip.Statement; decide

theorem Laws.WordRoundTrip.convertRGB555NV24 : Laws.WordRoundTrip.Statement .convertRGB555NV24 := by
  unfold Laws.WordRoundTrip.Statement; decide

theorem Laws.WordRoundTrip.convertRGB444NV24 : Laws.WordRoundTrip.Statement .convertRGB444NV24 := by
  unfold Laws.WordRoundTrip.Statement; decide

theorem Laws.WordRoundTrip.convertRGB888XNV24 : Laws.WordRoundTrip.Statement .convertRGB888XNV24 := by
  unfold Laws.WordRoundTrip.Statement; decide

theorem Laws.WordRoundTrip.convertRGB888NV42 : Laws.WordRoundTrip.Statement .convertRGB888NV42 := by
  unfold Laws.WordRoundTrip.Statement; decide

theorem Laws.WordRoundTrip.convertRGB565NV42 : Laws.WordRoundTrip.Statement .convertRGB565NV42 := by
  unfold Laws.WordRoundTrip.Statement; decide

theorem Laws.WordRoundTrip.convertRGB555NV42 : Laws.WordRoundTrip.Statement .convertRGB555NV42 := by
  unfold Laws.WordRoundTrip.Statement; decide

theorem Laws.WordRoundTrip.convertRGB444NV42 : Laws.WordRoundTrip.Statement .convertRGB444NV42 := by
  unfold Laws.WordRoundTrip.Statement; decide

theorem Laws.WordRoundTrip.convertRGB888XNV42 : Laws.WordRoundTrip.Statement .convertRGB888XNV42 := by
  unfold Laws.WordRoundTrip.Statement; decide

theorem Laws.WordRoundTrip.convertRGB888YUY2 : Laws.WordRoundTrip.Statement .convertRGB888YUY2 := by
  unfold Laws.WordRoundTrip.Statement; decide

theorem Laws.WordRoundTrip.convertRGB565YUY2 : Laws.WordRoundTrip.Statement .convertRGB565YUY2 := by
  unfold Laws.WordRoundTrip.Statement; decide

theorem Laws.WordRoundTrip.convertRGB555YUY2 : Laws.WordRoundTrip.Statement .convertRGB555YUY2 := by
  unfold Laws.WordRoundTrip.Statement; decide

theorem Laws.WordRoundTrip.convertRGB444YUY2 : Laws.WordRoundTrip.Statement .convertRGB444YUY2 := by
  unfold Laws.WordRoundTrip.Statement; decide

theorem Laws.WordRoundTrip.convertRGB888XYUY2 : Laws.WordRoundTrip.Statement .convertRGB888XYUY2 := by
  unfold Laws.WordRoundTrip.Statement; decide

theorem Laws.WordRoundTrip.convertRGB888YVYU : Laws.WordRoundTrip.Statement .convertRGB888YVYU := by
  unfold Laws.WordRoundTrip.Statement; decide

theorem Laws.WordRoundTrip.convertRGB565YVYU : Laws.WordRoundTrip.Statement .convertRGB565YVYU := by
  unfold Laws.WordRoundTrip.Statement; decide

theorem Laws.WordRoundTrip.convertRGB555YVYU : Laws.WordRoundTrip.Statement .convertRGB555YVYU := by
  unfold Laws.WordRoundTrip.Statement; decide

theorem Laws.WordRoundTrip.convertRGB444YVYU : Laws.WordRoundTrip.Statement .convertRGB444YVYU := by
  unfold Laws.WordRoundTrip.Statement; decide

theorem Laws.WordRoundTrip.convertRGB888XYVYU : Laws.WordRoundTrip.Statement .convertRGB888XYVYU := by
  unfold Laws.WordRoundTrip.Statement; decide

theorem Laws.WordRoundTrip.convertRGB888UYVY : Laws.WordRoundTrip.Statement .convertRGB888UYVY := by
  unfold Laws.WordRoundTrip.Statement; decide

theorem Laws.WordRoundTrip.convertRGB565UYVY : Laws.WordRoundTrip.Statement .convertRGB565UYVY := by
  unfold Laws.WordRoundTrip.Statement; decide

theorem Laws.WordRoundTrip.convertRGB555UYVY : Laws.WordRoundTrip.Statement .convertRGB555UYVY := by
  unfold Laws.WordRoundTrip.Statement; decide

theorem Laws.WordRoundTrip.convertRGB444UYVY : Laws.WordRoundTrip.Statement .convertRGB444UYVY := by
  unfold Laws.WordRoundTrip.Statement; decide

theorem Laws.WordRoundTrip.convertRGB888XUYVY : Laws.WordRoundTrip.Statement .convertRGB888XUYVY := by
  unfold Laws.WordRoundTrip.Statement; decide

theorem Laws.WordRoundTrip.convertRGB888VYUY : Laws.WordRoundTrip.Statement .convertRGB888VYUY := by
  unfold Laws.WordRoundTrip.Statement; decide

theorem Laws.WordRoundTrip.convertRGB565VYUY : Laws.WordRoundTrip.Statement .convertRGB565VYUY := by
  unfold Laws.WordRoundTrip.Statement; decide

theorem Laws.WordRoundTrip.convertRGB555VYUY : Laws.WordRoundTrip.Statement .convertRGB555VYUY := by
  unfold Laws.WordRoundTrip.Statement; decide

theorem Laws.WordRoundTrip.convertRGB444VYUY : Laws.WordRoundTrip.Statement .convertRGB444VYUY := by
  unfold Laws.WordRoundTrip.Statement; decide

theorem Laws.WordRoundTrip.convertRGB888XVYUY : Laws.WordRoundTrip.Statement .convertRGB888XVYUY := by
  unfold Laws.WordRoundTrip.Statement; decide

theorem Laws.WordRoundTrip.convertRGB888P422 : Laws.WordRoundTrip.Statement .convertRGB888P422 := by
  unfold Laws.WordRoundTrip.Statement; decide

theorem Laws.WordRoundTrip.convertRGB565P422 : Laws.WordRoundTrip.Statement .convertRGB565P422 := by
  unfold Laws.WordRoundTrip.Statement; decide

theorem Laws.WordRoundTrip.convertRGB555P422 : Laws.WordRoundTrip.Statement .convertRGB555P422 := by
  unfold Laws.WordRoundTrip.Statement; decide

theorem Laws.WordRoundTrip.convertRGB444P422 : Laws.WordRoundTrip.Statement .convertRGB444P422 := by
  unfold Laws.WordRoundTrip.Statement; decide

theorem Laws.WordRoundTrip.convertRGB888XP422 : Laws.WordRoundTrip.Statement .convertRGB888XP422 := by
  unfold Laws.WordRoundTrip.Statement; decide

theorem Laws.WordRoundTrip.convertRGB888YV12 : Laws.WordRoundTrip.Statement .convertRGB888YV12 := by
  unfold Laws.WordRoundTrip.Statement; decide

theorem Laws.WordRoundTrip.convertRGB565YV12 : Laws.WordRoundTrip.Statement .convertRGB565YV12 := by
  unfold Laws.WordRoundTrip.Statement; decide

theorem Laws.WordRoundTrip.convertRGB555YV12 : Laws.WordRoundTrip.Statement .convertRGB555YV12 := by
  unfold Laws.WordRoundTrip.Statement; decide

theorem Laws.WordRoundTrip.convertRGB444YV12 : Laws.WordRoundTrip.Statement .convertRGB444YV12 := by
  unfold Laws.WordRoundTrip.Statement; decide

theorem Laws.WordRoundTrip.convertRGB888XYV12 : Laws.WordRoundTrip.Statement .convertRGB888XYV12 := by
  unfold Laws.WordRoundTrip.Statement; decide

theorem Laws.WordRoundTrip.convertRGB888YU12 : Laws.WordRoundTrip.Statement .convertRGB888YU12 := by
  unfold Laws.WordRoundTrip.Statement; decide

theorem Laws.WordRoundTrip.convertRGB565YU12 : Laws.WordRoundTrip.Statement .convertRGB565YU12 := by
  unfold Laws.WordRoundTrip.Statement; decide

theorem Laws.WordRoundTrip.convertRGB555YU12 : Laws.WordRoundTrip.Statement .convertRGB555YU12 := by
  unfold Laws.WordRoundTrip.Statement; decide

theorem Laws.WordRoundTrip.convertRGB444YU12 : Laws.WordRoundTrip.Statement .convertRGB444YU12 := by
  unfold Laws.WordRoundTrip.Statement; decide

theorem Laws.WordRoundTrip.convertRGB888XYU12 : Laws.WordRoundTrip.Statement .convertRGB888XYU12 := by
  unfold Laws.WordRoundTrip.Statement; decide

theorem Laws.WordRoundTrip.convertRGB888NV12 : Laws.WordRoundTrip.Statement .convertRGB888NV12 := by
  unfold Laws.WordRoundTrip.Statement; decide

theorem Laws.WordRoundTrip.convertRGB565NV12 : Laws.WordRoundTrip.Statement .convertRGB565NV12 := by
  unfold Laws.WordRoundTrip.Statement; decide

theorem Laws.WordRoundTrip.convertRGB555NV12 : Laws.WordRoundTrip.Statement .convertRGB555NV12 := by
  unfold Laws.WordRoundTrip.Statement; decide

theorem Laws.WordRoundTrip.convertRGB444NV12 : Laws.WordRoundTrip.Statement .convertRGB444NV12 := by
  unfold Laws.WordRoundTrip.Statement; decide

theorem Laws.WordRoundTrip.convertRGB888XNV12 : Laws.WordRoundTrip.Statement .convertRGB888XNV12 := by
  unfold Laws.WordRoundTrip.Statement; decide

theorem Laws.WordRoundTrip.convertRGB888NV21 : Laws.WordRoundTrip.Statement .convertRGB888NV21 := by
  unfold Laws.WordRoundTrip.Statement; decide

theorem Laws.WordRoundTrip.convertRGB565NV21 : Laws.WordRoundTrip.Statement .convertRGB565NV21 := by
  unfold Laws.WordRoundTrip.Statement; decide

theorem Laws.WordRoundTrip.convertRGB555NV21 : Laws.WordRoundTrip.Statement .convertRGB555NV21 := by
  unfold Laws.WordRoundTrip.Statement; decide

theorem Laws.WordRoundTrip.convertRGB444NV21 : Laws.WordRoundTrip.Statement .convertRGB444NV21 := by
  unfold Laws.WordRoundTrip.Statement; decide

theorem Laws.WordRoundTrip.convertRGB888XNV21 : Laws.WordRoundTrip.Statement .convertRGB888XNV21 := by
  unfold Laws.WordRoundTrip.Statement; decide

theorem Laws.WordRoundTrip.convertRGB888Y41P : Laws.WordRoundTrip.Statement .convertRGB888Y41P := by
  unfold Laws.WordRoundTrip.Statement; decide

theorem Laws.WordRoundTrip.convertRGB565Y41P : Laws.WordRoundTrip.Statement .convertRGB565Y41P := by
  unfold Laws.WordRoundTrip.Statement; decide

theorem Laws.WordRoundTrip.convertRGB555Y41P : Laws.WordRoundTrip.Statement .convertRGB555Y41P := by
  unfold Laws.WordRoundTrip.Statement; decide

theorem Laws.WordRoundTrip.convertRGB444Y41P : Laws.WordRoundTrip.Statement .convertRGB444Y41P := by
  unfold Laws.WordRoundTrip.Statement; decide

theorem Laws.WordRoundTrip.convertRGB888XY41P : Laws.WordRoundTrip.Statement .convertRGB888XY41P := by
  unfold Laws.WordRoundTrip.Statement; decide

theorem Laws.WordRoundTrip.convertRGB888P411 : Laws.WordRoundTrip.Statement .convertRGB888P411 := by
  unfold Laws.WordRoundTrip.Statement; decide

theorem Laws.WordRoundTrip.convertRGB565P411 : Laws.WordRoundTrip.Statement .convertRGB565P411 := by
  unfold Laws.WordRoundTrip.Statement; decide

theorem Laws.WordRoundTrip.convertRGB555P411 : Laws.WordRoundTrip.Statement .convertRGB555P411 := by
  unfold Laws.WordRoundTrip.Statement; decide

theorem Laws.WordRoundTrip.convertRGB444P411 : Laws.WordRoundTrip.Statement .convertRGB444P411 := by
  unfold Laws.WordRoundTrip.Statement; decide

theorem Laws.WordRoundTrip.convertRGB888XP411 : Laws.WordRoundTrip.Statement .convertRGB888XP411 := by
  unfold Laws.WordRoundTrip.Statement; decide

theorem Laws.WordRoundTrip.convertRGB888YVU9 : Laws.WordRoundTrip.Statement .convertRGB888YVU9 := by
  unfold Laws.WordRoundTrip.Statement; decide

theorem Laws.WordRoundTrip.convertRGB565YVU9 : Laws.WordRoundTrip.Statement .convertRGB565YVU9 := by
  unfold Laws.WordRoundTrip.Statement; decide

theorem Laws.WordRoundTrip.convertRGB555YVU9 : Laws.WordRoundTrip.Statement .convertRGB555YVU9 := by
  unfold Laws.WordRoundTrip.Statement; decide

theorem Laws.WordRoundTrip.convertRGB444YVU9 : Laws.WordRoundTrip.Statement .convertRGB444YVU9 := by
  unfold Laws.WordRoundTrip.Statement; decide

theorem Laws.WordRoundTrip.convertRGB888XYVU9 : Laws.WordRoundTrip.Statement .convertRGB888XYVU9 := by
  unfold Laws.WordRoundTrip.Statement; decide

theorem Laws.WordRoundTrip.convertRGB888YUV9 : Laws.WordRoundTrip.Statement .convertRGB888YUV9 := by
  unfold Laws.WordRoundTrip.Statement; decide

theorem Laws.WordRoundTrip.convertRGB565YUV9 : Laws.WordRoundTrip.Statement .convertRGB565YUV9 := by
  unfold Laws.WordRoundTrip.Statement; decide

theorem Laws.WordRoundTrip.convertRGB555YUV9 : Laws.WordRoundTrip.Statement .convertRGB555YUV9 := by
  unfold Laws.WordRoundTrip.Statement; decide

theorem Laws.WordRoundTrip.convertRGB444YUV9 : Laws.WordRoundTrip.Statement .convertRGB444YUV9 := by
  unfold Laws.WordRoundTrip.Statement; decide

theorem Laws.WordRoundTrip.convertRGB888XYUV9 : Laws.WordRoundTrip.Statement .convertRGB888XYUV9 := by
  unfold Laws.WordRoundTrip.Statement; decide

end Sys2Proof
end

