-- ==== Sys2Proof/Tests/Slice0.lean ====
section
/-! SUPPORT. The model's own tests. Expected values are the spec's: spec/opcode_table.json for the words,
spec/95_test_vectors.md for the bytes (each test names its vector), and the rules named. The last part shows, for every
statement of Certificates/Slice0/Obligations.lean that has hypotheses, a state and operands that meet them. -/

-- One theorem at a time: many kernel evaluations at once exceed the memory limit of the check.
set_option Elab.async false

namespace Sys2Proof.Tests

open Sys2Proof Sys2Proof.Machine

/-! ### Helpers -/

/-- The outcome is the next state `t`. -/
def nextIs (o : Host.Outcome State Fault Refusal) (t : State) : Bool :=
  match o with
  | .next u => decide (u = t)
  | _ => false

/-- `n` bytes of the next state's memory from `a`; none where there is no next state. -/
def outBytes (o : Host.Outcome State Fault Refusal) (a n : Nat) : List Byte :=
  match o with
  | .next t => memReadBytes t.mem a n
  | _ => []

/-- STATUS of the next state. -/
def outStatus (o : Host.Outcome State Fault Refusal) : Word :=
  match o with
  | .next t => t.status.word
  | _ => 0xFFFFFFFF

/-- The next state, or the reset state where there is none. -/
def nextOr (o : Host.Outcome State Fault Refusal) : State :=
  match o with
  | .next t => t
  | _ => State.reset

/-- The reset state with dimensions, a source at 0x100 holding the bytes given, C = 0x400, D = 0x200 and L. -/
def image (w h : BitVec 16) (len : Word) (src : List Byte) : State :=
  { State.reset with width := w, height := h, srcAddr := 0x100, canAddr := 0x400, dstAddr := 0x200, dstLen := len,
                     mem := memWriteBytes [] 0x100 src }

/-- The bytes CONVERT writes. -/
def converted (i : Instr) (w h : BitVec 16) (len : Nat) (src : List Byte) : List Byte :=
  outBytes (exec i (image w h (BitVec.ofNat 32 len) src)) 0x200 len

/-- The bytes NORMALIZE writes. -/
def normalized (i : Instr) (w : BitVec 16) (len : Nat) (src : List Byte) : List Byte :=
  outBytes (exec i (image w 1 0 src)) 0x400 len

/-- Red, green, blue, white and black as RGB888 source bytes. -/
def red : List Byte := [0x00, 0x00, 0xFF]
def green : List Byte := [0x00, 0xFF, 0x00]
def blue : List Byte := [0xFF, 0x00, 0x00]
def white : List Byte := [0xFF, 0xFF, 0xFF]
def black : List Byte := [0x00, 0x00, 0x00]

/-! ### Decoding: the words of spec/opcode_table.json -/

theorem test_table_words_a :
    [0x00000000, 0x00010000, 0x00010001, 0x00010002, 0x00010003, 0x00010004, 0x00010010, 0x00010011, 0x00010012, 0x00010013, 0x00010014, 0x00010015, 0x00010016, 0x00010017, 0x00010018, 0x00010019, 0x0001001A, 0x0001001B, 0x0001001C, 0x0001001D, 0x0001001E].map (decodeTableWord 32) =
      [some .nop, some .reqbytesRGB888, some .reqbytesRGB565, some .reqbytesRGB555, some .reqbytesRGB444, some .reqbytesRGB888X, some .reqbytesNV24, some .reqbytesNV42, some .reqbytesYUY2, some .reqbytesYVYU, some .reqbytesUYVY, some .reqbytesVYUY, some .reqbytesP422, some .reqbytesYV12, some .reqbytesYU12, some .reqbytesNV12, some .reqbytesNV21, some .reqbytesY41P, some .reqbytesP411, some .reqbytesYVU9, some .reqbytesYUV9] := by decide +kernel

theorem test_table_encodings_a :
    [Instr.nop, .reqbytesRGB888, .reqbytesRGB565, .reqbytesRGB555, .reqbytesRGB444, .reqbytesRGB888X, .reqbytesNV24, .reqbytesNV42, .reqbytesYUY2, .reqbytesYVYU, .reqbytesUYVY, .reqbytesVYUY, .reqbytesP422, .reqbytesYV12, .reqbytesYU12, .reqbytesNV12, .reqbytesNV21, .reqbytesY41P, .reqbytesP411, .reqbytesYVU9, .reqbytesYUV9].map (fun i => (encode i).toNat) =
      [0x00000000, 0x00010000, 0x00010001, 0x00010002, 0x00010003, 0x00010004, 0x00010010, 0x00010011, 0x00010012, 0x00010013, 0x00010014, 0x00010015, 0x00010016, 0x00010017, 0x00010018, 0x00010019, 0x0001001A, 0x0001001B, 0x0001001C, 0x0001001D, 0x0001001E] := by decide +kernel

theorem test_table_words_b :
    [0x00020000, 0x00020001, 0x00020002, 0x00020003, 0x00020004, 0x00031000, 0x00031001, 0x00031002, 0x00031003, 0x00031004, 0x00031100, 0x00031101, 0x00031102, 0x00031103, 0x00031104, 0x00031200, 0x00031201, 0x00031202, 0x00031203, 0x00031204, 0x00031300].map (decodeTableWord 32) =
      [some .normalizeRGB888, some .normalizeRGB565, some .normalizeRGB555, some .normalizeRGB444, some .normalizeRGB888X, some .convertRGB888NV24, some .convertRGB565NV24, some .convertRGB555NV24, some .convertRGB444NV24, some .convertRGB888XNV24, some .convertRGB888NV42, some .convertRGB565NV42, some .convertRGB555NV42, some .convertRGB444NV42, some .convertRGB888XNV42, some .convertRGB888YUY2, some .convertRGB565YUY2, some .convertRGB555YUY2, some .convertRGB444YUY2, some .convertRGB888XYUY2, some .convertRGB888YVYU] := by decide +kernel

theorem test_table_encodings_b :
    [Instr.normalizeRGB888, .normalizeRGB565, .normalizeRGB555, .normalizeRGB444, .normalizeRGB888X, .convertRGB888NV24, .convertRGB565NV24, .convertRGB555NV24, .convertRGB444NV24, .convertRGB888XNV24, .convertRGB888NV42, .convertRGB565NV42, .convertRGB555NV42, .convertRGB444NV42, .convertRGB888XNV42, .convertRGB888YUY2, .convertRGB565YUY2, .convertRGB555YUY2, .convertRGB444YUY2, .convertRGB888XYUY2, .convertRGB888YVYU].map (fun i => (encode i).toNat) =
      [0x00020000, 0x00020001, 0x00020002, 0x00020003, 0x00020004, 0x00031000, 0x00031001, 0x00031002, 0x00031003, 0x00031004, 0x00031100, 0x00031101, 0x00031102, 0x00031103, 0x00031104, 0x00031200, 0x00031201, 0x00031202, 0x00031203, 0x00031204, 0x00031300] := by decide +kernel

theorem test_table_words_c :
    [0x00031301, 0x00031302, 0x00031303, 0x00031304, 0x00031400, 0x00031401, 0x00031402, 0x00031403, 0x00031404, 0x00031500, 0x00031501, 0x00031502, 0x00031503, 0x00031504, 0x00031600, 0x00031601, 0x00031602, 0x00031603, 0x00031604, 0x00031700, 0x00031701].map (decodeTableWord 32) =
      [some .convertRGB565YVYU, some .convertRGB555YVYU, some .convertRGB444YVYU, some .convertRGB888XYVYU, some .convertRGB888UYVY, some .convertRGB565UYVY, some .convertRGB555UYVY, some .convertRGB444UYVY, some .convertRGB888XUYVY, some .convertRGB888VYUY, some .convertRGB565VYUY, some .convertRGB555VYUY, some .convertRGB444VYUY, some .convertRGB888XVYUY, some .convertRGB888P422, some .convertRGB565P422, some .convertRGB555P422, some .convertRGB444P422, some .convertRGB888XP422, some .convertRGB888YV12, some .convertRGB565YV12] := by decide +kernel

theorem test_table_encodings_c :
    [Instr.convertRGB565YVYU, .convertRGB555YVYU, .convertRGB444YVYU, .convertRGB888XYVYU, .convertRGB888UYVY, .convertRGB565UYVY, .convertRGB555UYVY, .convertRGB444UYVY, .convertRGB888XUYVY, .convertRGB888VYUY, .convertRGB565VYUY, .convertRGB555VYUY, .convertRGB444VYUY, .convertRGB888XVYUY, .convertRGB888P422, .convertRGB565P422, .convertRGB555P422, .convertRGB444P422, .convertRGB888XP422, .convertRGB888YV12, .convertRGB565YV12].map (fun i => (encode i).toNat) =
      [0x00031301, 0x00031302, 0x00031303, 0x00031304, 0x00031400, 0x00031401, 0x00031402, 0x00031403, 0x00031404, 0x00031500, 0x00031501, 0x00031502, 0x00031503, 0x00031504, 0x00031600, 0x00031601, 0x00031602, 0x00031603, 0x00031604, 0x00031700, 0x00031701] := by decide +kernel

theorem test_table_words_d :
    [0x00031702, 0x00031703, 0x00031704, 0x00031800, 0x00031801, 0x00031802, 0x00031803, 0x00031804, 0x00031900, 0x00031901, 0x00031902, 0x00031903, 0x00031904, 0x00031A00, 0x00031A01, 0x00031A02, 0x00031A03, 0x00031A04, 0x00031B00, 0x00031B01, 0x00031B02].map (decodeTableWord 32) =
      [some .convertRGB555YV12, some .convertRGB444YV12, some .convertRGB888XYV12, some .convertRGB888YU12, some .convertRGB565YU12, some .convertRGB555YU12, some .convertRGB444YU12, some .convertRGB888XYU12, some .convertRGB888NV12, some .convertRGB565NV12, some .convertRGB555NV12, some .convertRGB444NV12, some .convertRGB888XNV12, some .convertRGB888NV21, some .convertRGB565NV21, some .convertRGB555NV21, some .convertRGB444NV21, some .convertRGB888XNV21, some .convertRGB888Y41P, some .convertRGB565Y41P, some .convertRGB555Y41P] := by decide +kernel

theorem test_table_encodings_d :
    [Instr.convertRGB555YV12, .convertRGB444YV12, .convertRGB888XYV12, .convertRGB888YU12, .convertRGB565YU12, .convertRGB555YU12, .convertRGB444YU12, .convertRGB888XYU12, .convertRGB888NV12, .convertRGB565NV12, .convertRGB555NV12, .convertRGB444NV12, .convertRGB888XNV12, .convertRGB888NV21, .convertRGB565NV21, .convertRGB555NV21, .convertRGB444NV21, .convertRGB888XNV21, .convertRGB888Y41P, .convertRGB565Y41P, .convertRGB555Y41P].map (fun i => (encode i).toNat) =
      [0x00031702, 0x00031703, 0x00031704, 0x00031800, 0x00031801, 0x00031802, 0x00031803, 0x00031804, 0x00031900, 0x00031901, 0x00031902, 0x00031903, 0x00031904, 0x00031A00, 0x00031A01, 0x00031A02, 0x00031A03, 0x00031A04, 0x00031B00, 0x00031B01, 0x00031B02] := by decide +kernel

theorem test_table_words_e :
    [0x00031B03, 0x00031B04, 0x00031C00, 0x00031C01, 0x00031C02, 0x00031C03, 0x00031C04, 0x00031D00, 0x00031D01, 0x00031D02, 0x00031D03, 0x00031D04, 0x00031E00, 0x00031E01, 0x00031E02, 0x00031E03, 0x00031E04].map (decodeTableWord 32) =
      [some .convertRGB444Y41P, some .convertRGB888XY41P, some .convertRGB888P411, some .convertRGB565P411, some .convertRGB555P411, some .convertRGB444P411, some .convertRGB888XP411, some .convertRGB888YVU9, some .convertRGB565YVU9, some .convertRGB555YVU9, some .convertRGB444YVU9, some .convertRGB888XYVU9, some .convertRGB888YUV9, some .convertRGB565YUV9, some .convertRGB555YUV9, some .convertRGB444YUV9, some .convertRGB888XYUV9] := by decide +kernel

theorem test_table_encodings_e :
    [Instr.convertRGB444Y41P, .convertRGB888XY41P, .convertRGB888P411, .convertRGB565P411, .convertRGB555P411, .convertRGB444P411, .convertRGB888XP411, .convertRGB888YVU9, .convertRGB565YVU9, .convertRGB555YVU9, .convertRGB444YVU9, .convertRGB888XYVU9, .convertRGB888YUV9, .convertRGB565YUV9, .convertRGB555YUV9, .convertRGB444YUV9, .convertRGB888XYUV9].map (fun i => (encode i).toNat) =
      [0x00031B03, 0x00031B04, 0x00031C00, 0x00031C01, 0x00031C02, 0x00031C03, 0x00031C04, 0x00031D00, 0x00031D01, 0x00031D02, 0x00031D03, 0x00031D04, 0x00031E00, 0x00031E01, 0x00031E02, 0x00031E03, 0x00031E04] := by decide +kernel

/-- One word per family, written out field by field (R90: Z3 12, OP 4, Z2 3, FB 5, Z1 3, FA 5 bits). -/
theorem test_word_fields :
    decode (0#12 ++ 0b0000#4 ++ 0#3 ++ 0b00000#5 ++ 0#3 ++ 0b00000#5) = .ok .nop ∧
    decode (0#12 ++ 0b0001#4 ++ 0#3 ++ 0b00000#5 ++ 0#3 ++ 0b11110#5) = .ok .reqbytesYUV9 ∧
    decode (0#12 ++ 0b0010#4 ++ 0#3 ++ 0b00000#5 ++ 0#3 ++ 0b00011#5) = .ok .normalizeRGB444 ∧
    decode (0#12 ++ 0b0011#4 ++ 0#3 ++ 0b10000#5 ++ 0#3 ++ 0b00001#5) = .ok .convertRGB565NV24 ∧
    decode (0#12 ++ 0b0011#4 ++ 0#3 ++ 0b10101#5 ++ 0#3 ++ 0b00010#5) = .ok .convertRGB555VYUY ∧
    decode (0#12 ++ 0b0011#4 ++ 0#3 ++ 0b11010#5 ++ 0#3 ++ 0b00100#5) = .ok .convertRGB888XNV21 ∧
    decode (0#12 ++ 0b0011#4 ++ 0#3 ++ 0b11011#5 ++ 0#3 ++ 0b00000#5) = .ok .convertRGB888Y41P ∧
    decode (0#12 ++ 0b0011#4 ++ 0#3 ++ 0b11101#5 ++ 0#3 ++ 0b00011#5) = .ok .convertRGB444YVU9 := by decide +kernel

/-- V-E1 to V-E10 and the reserved numbers at the ends of their ranges. -/
theorem test_refused_words :
    [0x00040000, 0x000F0000, 0x80031900, 0x00100000, 0x00032000, 0x00008000, 0x00000020, 0x00000080, 0x00000001,
     0x00000100, 0x00021000, 0x00010100].map (fun k => (decode k).toOption.isSome) = List.replicate 12 false ∧
    [0x00010005, 0x0001000F, 0x0001001F, 0x00020005, 0x00020010, 0x00031910, 0x00031905, 0x00030100, 0x00030F00,
     0x00031F00].map (fun k => (decode k).toOption.isSome) = List.replicate 10 false := by decide +kernel

/-! ### WellFormed: one ill-formed term per check -/

theorem test_wf_reserved_z3 : Fields.wellFormed { z3 := 1, op := 0, z2 := 0, fb := 0, z1 := 0, fa := 0 } = false := by decide
theorem test_wf_reserved_z2 : Fields.wellFormed { z3 := 0, op := 0, z2 := 4, fb := 0, z1 := 0, fa := 0 } = false := by decide
theorem test_wf_reserved_z1 : Fields.wellFormed { z3 := 0, op := 0, z2 := 0, fb := 0, z1 := 1, fa := 0 } = false := by decide
theorem test_wf_reserved_op : Fields.wellFormed { z3 := 0, op := 4, z2 := 0, fb := 0, z1 := 0, fa := 0 } = false := by decide
theorem test_wf_nop_fa : Fields.wellFormed { z3 := 0, op := 0, z2 := 0, fb := 0, z1 := 0, fa := 1 } = false := by decide
theorem test_wf_reqbytes_fb : Fields.wellFormed { z3 := 0, op := 1, z2 := 0, fb := 16, z1 := 0, fa := 0 } = false := by decide
theorem test_wf_normalize_fb : Fields.wellFormed { z3 := 0, op := 2, z2 := 0, fb := 16, z1 := 0, fa := 0 } = false := by decide
theorem test_wf_reqbytes_tag : Fields.wellFormed { z3 := 0, op := 1, z2 := 0, fb := 0, z1 := 0, fa := 5 } = false := by decide
theorem test_wf_normalize_tag : Fields.wellFormed { z3 := 0, op := 2, z2 := 0, fb := 0, z1 := 0, fa := 16 } = false := by decide
theorem test_wf_convert_source : Fields.wellFormed { z3 := 0, op := 3, z2 := 0, fb := 16, z1 := 0, fa := 5 } = false := by decide
theorem test_wf_convert_target : Fields.wellFormed { z3 := 0, op := 3, z2 := 0, fb := 31, z1 := 0, fa := 0 } = false := by decide
theorem test_wf_accepts : Fields.wellFormed { z3 := 0, op := 3, z2 := 0, fb := 30, z1 := 0, fa := 4 } = true := by decide

/-! ### Commands: the vectors of spec/95_test_vectors.md -/

/-- Program 1: WIDTH 640, HEIGHT 480, REQBYTES YU12 gives 460800 and DONE. -/
theorem test_reqbytes_yu12 :
    (nextOr (exec .reqbytesYU12 (image 640 480 0 []))).result = 460800 ∧
    outStatus (exec .reqbytesYU12 (image 640 480 0 [])) = 2 := by decide +kernel

/-- Section 2.1: RGB888X at 65535 x 65535 needs 34 bits: RESULT_HI = 3, RESULT_LO = 0xFFF80004. -/
theorem test_reqbytes_largest :
    (nextOr (exec .reqbytesRGB888X (image 65535 65535 0 []))).readReg 0x24 = 3 ∧
    (nextOr (exec .reqbytesRGB888X (image 65535 65535 0 []))).readReg 0x20 = 0xFFF80004 := by decide +kernel

/-- Section 2.1: Y41P needs a multiple of 8; 3 x 1 is odd for YUY2 (Program 1). -/
theorem test_reqbytes_dim :
    outStatus (exec .reqbytesY41P (image 4 1 0 [])) = 0x304 ∧
    outStatus (exec .reqbytesYUY2 (image 3 1 0 [])) = 0x304 := by decide +kernel

/-- Program 1: NOP after a refusal clears ERR. -/
theorem test_nop_clears_err :
    outStatus (exec .nop (nextOr (exec .reqbytesYUY2 (image 3 1 0 [])))) = 2 := by decide +kernel

/-- V-N4 -/
theorem test_V_N4 : normalized .normalizeRGB565 1 3 [0x1F, 0x00] =
    [0xF8, 0x00, 0x00] := by decide +kernel

/-- V-N6 -/
theorem test_V_N6 : normalized .normalizeRGB565 1 3 [0x34, 0x12] =
    [0xA0, 0x44, 0x10] := by decide +kernel

/-- V-N11 -/
theorem test_V_N11 : normalized .normalizeRGB555 2 6 [0xFF, 0xFF, 0xFF, 0x7F] =
    [0xF8, 0xF8, 0xF8, 0xF8, 0xF8, 0xF8] := by decide +kernel

/-- V-N13 -/
theorem test_V_N13 : normalized .normalizeRGB555 1 3 [0x34, 0x12] =
    [0xA0, 0x88, 0x20] := by decide +kernel

/-- V-N15 -/
theorem test_V_N15 : normalized .normalizeRGB444 3 9 [0xBA, 0xFC, 0xED, 0x21, 0xF3] =
    [0xA0, 0xB0, 0xC0, 0xF0, 0xD0, 0xE0, 0x10, 0x20, 0x30] := by decide +kernel

/-- V-N16 -/
theorem test_V_N16 : normalized .normalizeRGB444 3 9 [0x0F, 0x00, 0x00, 0xF0, 0x00] =
    [0xF0, 0x00, 0x00, 0x00, 0x00, 0x00, 0x00, 0xF0, 0x00] := by decide +kernel

/-- V-N18 -/
theorem test_V_N18 : normalized .normalizeRGB888X 2 6 [0x01, 0x02, 0x03, 0x04, 0x05, 0x06, 0x07, 0x08] =
    [0x01, 0x02, 0x03, 0x05, 0x06, 0x07] := by decide +kernel

/-- S6: NORMALIZE RGB888 ends with CAN_PTR = S and the memory unchanged. -/
theorem test_normalize_rgb888 :
    (nextOr (exec .normalizeRGB888 (image 2 1 0 (red ++ green)))).canPtr = 0x100 ∧
    (nextOr (exec .normalizeRGB888 (image 2 1 0 (red ++ green)))).mem = (image 2 1 0 (red ++ green)).mem := by
  decide +kernel

/-- V-M7 to V-M11: (Y, U, V) of five colours given as (B, G, R). -/
theorem test_matrix :
    [(0, 255, 255), (255, 255, 0), (255, 0, 255), (3, 2, 1), (50, 100, 200)].map
      (fun x => pixelYuv Matrix.bt601 { b := x.1, g := x.2.1, r := x.2.2 }) =
    [⟨210, 16, 146⟩, ⟨169, 166, 16⟩, ⟨107, 202, 222⟩, ⟨18, 129, 127⟩, ⟨123, 91, 175⟩] := by decide +kernel

/-- V-W1 -/
theorem test_V_W1 : converted .convertRGB888NV24 2 1 6 (red ++ green) =
    [0x52, 0x90, 0x5A, 0xF0, 0x36, 0x22] := by decide +kernel

/-- V-W2 -/
theorem test_V_W2 : converted .convertRGB888NV42 2 1 6 (red ++ green) =
    [0x52, 0x90, 0xF0, 0x5A, 0x22, 0x36] := by decide +kernel

/-- V-W3 -/
theorem test_V_W3 : converted .convertRGB888YUY2 2 1 4 (red ++ green) =
    [0x52, 0x48, 0x90, 0x89] := by decide +kernel

/-- V-W4 -/
theorem test_V_W4 : converted .convertRGB888YVYU 2 1 4 (red ++ green) =
    [0x52, 0x89, 0x90, 0x48] := by decide +kernel

/-- V-W5 -/
theorem test_V_W5 : converted .convertRGB888UYVY 2 1 4 (red ++ green) =
    [0x48, 0x52, 0x89, 0x90] := by decide +kernel

/-- V-W6 -/
theorem test_V_W6 : converted .convertRGB888VYUY 2 1 4 (red ++ green) =
    [0x89, 0x52, 0x48, 0x90] := by decide +kernel

/-- V-W7 -/
theorem test_V_W7 : converted .convertRGB888P422 2 1 4 (red ++ green) =
    [0x52, 0x90, 0x48, 0x89] := by decide +kernel

/-- V-W8 -/
theorem test_V_W8 : converted .convertRGB888UYVY 3 2 12 (red ++ green ++ blue ++ white ++ black ++ red) =
    [0x48, 0x52, 0x89, 0x90, 0xB8, 0x29, 0x77, 0xEB, 0x6D, 0x10, 0xB8, 0x52] := by decide +kernel

/-- V-W13 -/
theorem test_V_W13 : converted .convertRGB888YV12 4 2 12 (red ++ red ++ green ++ green ++ green ++ blue ++ blue ++ blue) =
    [0x52, 0x52, 0x90, 0x90, 0x90, 0x29, 0x29, 0x29, 0x9C, 0x48, 0x76, 0x93] := by decide +kernel

/-- V-W14 -/
theorem test_V_W14 : converted .convertRGB888YU12 4 2 12 (red ++ red ++ green ++ green ++ green ++ blue ++ blue ++ blue) =
    [0x52, 0x52, 0x90, 0x90, 0x90, 0x29, 0x29, 0x29, 0x76, 0x93, 0x9C, 0x48] := by decide +kernel

/-- V-W15 -/
theorem test_V_W15 : converted .convertRGB888NV12 4 2 12 (red ++ red ++ green ++ green ++ green ++ blue ++ blue ++ blue) =
    [0x52, 0x52, 0x90, 0x90, 0x90, 0x29, 0x29, 0x29, 0x76, 0x9C, 0x93, 0x48] := by decide +kernel

/-- V-W16 -/
theorem test_V_W16 : converted .convertRGB888NV21 4 2 12 (red ++ red ++ green ++ green ++ green ++ blue ++ blue ++ blue) =
    [0x52, 0x52, 0x90, 0x90, 0x90, 0x29, 0x29, 0x29, 0x9C, 0x76, 0x48, 0x93] := by decide +kernel

/-- V-W18 -/
theorem test_V_W18 : converted .convertRGB888Y41P 8 1 12 (red ++ red ++ green ++ blue ++ blue ++ blue ++ blue ++ green) =
    [0x76, 0x52, 0x9C, 0x52, 0xC1, 0x90, 0x5B, 0x29, 0x29, 0x29, 0x29, 0x90] := by decide +kernel

/-- V-W19 -/
theorem test_V_W19 : converted .convertRGB888P411 8 1 12 (red ++ red ++ green ++ blue ++ blue ++ blue ++ blue ++ green) =
    [0x52, 0x52, 0x90, 0x29, 0x29, 0x29, 0x29, 0x90, 0x76, 0xC1, 0x9C, 0x5B] := by decide +kernel

/-- V-W20 -/
theorem test_V_W20 : converted .convertRGB888YUV9 4 4 18 ((List.replicate 8 red ++ List.replicate 4 green ++ List.replicate 4 blue).flatten) =
    [0x52, 0x52, 0x52, 0x52, 0x52, 0x52, 0x52, 0x52, 0x90, 0x90, 0x90, 0x90, 0x29, 0x29, 0x29, 0x29, 0x76, 0x9C] := by decide +kernel

/-- V-W21 -/
theorem test_V_W21 : converted .convertRGB888YVU9 4 4 18 ((List.replicate 8 red ++ List.replicate 4 green ++ List.replicate 4 blue).flatten) =
    [0x52, 0x52, 0x52, 0x52, 0x52, 0x52, 0x52, 0x52, 0x90, 0x90, 0x90, 0x90, 0x29, 0x29, 0x29, 0x29, 0x9C, 0x76] := by decide +kernel

/-- Section 2.6, RGB565 to NV24 -/
theorem test_narrow_RGB565_NV24 :
    converted .convertRGB565NV24 4 4 48
      [0x40, 0x0E, 0x0B, 0x30, 0xF5, 0x51, 0xDF, 0x7B, 0xAA, 0x9D, 0x74, 0xC7, 0x5E, 0xE9, 0x29, 0x0B, 0x13, 0x35, 0xDE, 0x5E, 0xA8, 0x78, 0x92, 0xA2, 0x7D, 0xC4, 0x27, 0xEE, 0x11, 0x10, 0xFC, 0x31] =
    [0x77, 0x25, 0x53, 0x84, 0x9A, 0xC8, 0x77, 0x4B, 0x7C, 0xAB, 0x3F, 0x70, 0x9F, 0xB4, 0x21, 0x50, 0x45, 0x3A, 0x9F, 0x8F, 0xAC, 0x81, 0xB8, 0x77, 0x58, 0x7B, 0x65, 0x72, 0xBB, 0xC6, 0x81, 0x5A, 0x8D, 0x50, 0x9E, 0x46, 0x84, 0xA9, 0x90, 0x9F, 0xA1, 0x90, 0x3D, 0x9A, 0xB9, 0x7D, 0xCA, 0x6F] := by decide +kernel

/-- Section 2.6, RGB565 to YUY2 -/
theorem test_narrow_RGB565_YUY2 :
    converted .convertRGB565YUY2 4 4 32
      [0x40, 0x0E, 0x0B, 0x30, 0xF5, 0x51, 0xDF, 0x7B, 0xAA, 0x9D, 0x74, 0xC7, 0x5E, 0xE9, 0x29, 0x0B, 0x13, 0x35, 0xDE, 0x5E, 0xA8, 0x78, 0x92, 0xA2, 0x7D, 0xC4, 0x27, 0xEE, 0x11, 0x10, 0xFC, 0x31] =
    [0x77, 0x72, 0x25, 0x64, 0x53, 0xB2, 0x84, 0x7C, 0x9A, 0x5E, 0xC8, 0x76, 0x77, 0x9E, 0x4B, 0x90, 0x7C, 0x95, 0xAB, 0x4B, 0x3F, 0x8A, 0x70, 0xA4, 0x9F, 0x6F, 0xB4, 0x95, 0x21, 0xC1, 0x50, 0x76] := by decide +kernel

/-- Section 2.6, RGB565 to NV12 -/
theorem test_narrow_RGB565_NV12 :
    converted .convertRGB565NV12 4 4 24
      [0x40, 0x0E, 0x0B, 0x30, 0xF5, 0x51, 0xDF, 0x7B, 0xAA, 0x9D, 0x74, 0xC7, 0x5E, 0xE9, 0x29, 0x0B, 0x13, 0x35, 0xDE, 0x5E, 0xA8, 0x78, 0x92, 0xA2, 0x7D, 0xC4, 0x27, 0xEE, 0x11, 0x10, 0xFC, 0x31] =
    [0x77, 0x25, 0x53, 0x84, 0x9A, 0xC8, 0x77, 0x4B, 0x7C, 0xAB, 0x3F, 0x70, 0x9F, 0xB4, 0x21, 0x50, 0x68, 0x6D, 0xA8, 0x86, 0x82, 0x70, 0xA5, 0x8D] := by decide +kernel

/-- Section 2.6, RGB565 to Y41P -/
theorem test_narrow_RGB565_Y41P :
    converted .convertRGB565Y41P 4 4 24
      [0x40, 0x0E, 0x0B, 0x30, 0xF5, 0x51, 0xDF, 0x7B, 0xAA, 0x9D, 0x74, 0xC7, 0x5E, 0xE9, 0x29, 0x0B, 0x13, 0x35, 0xDE, 0x5E, 0xA8, 0x78, 0x92, 0xA2, 0x7D, 0xC4, 0x27, 0xEE, 0x11, 0x10, 0xFC, 0x31] =
    [0x92, 0x77, 0x70, 0x25, 0x7E, 0x53, 0x83, 0x84, 0x9A, 0xC8, 0x77, 0x4B, 0x8F, 0x7C, 0x77, 0xAB, 0x98, 0x3F, 0x85, 0x70, 0x9F, 0xB4, 0x21, 0x50] := by decide +kernel

/-- Section 2.6, RGB565 to YUV9 -/
theorem test_narrow_RGB565_YUV9 :
    converted .convertRGB565YUV9 4 4 18
      [0x40, 0x0E, 0x0B, 0x30, 0xF5, 0x51, 0xDF, 0x7B, 0xAA, 0x9D, 0x74, 0xC7, 0x5E, 0xE9, 0x29, 0x0B, 0x13, 0x35, 0xDE, 0x5E, 0xA8, 0x78, 0x92, 0xA2, 0x7D, 0xC4, 0x27, 0xEE, 0x11, 0x10, 0xFC, 0x31] =
    [0x77, 0x25, 0x53, 0x84, 0x9A, 0xC8, 0x77, 0x4B, 0x7C, 0xAB, 0x3F, 0x70, 0x9F, 0xB4, 0x21, 0x50, 0x8E, 0x7C] := by decide +kernel

/-- Section 2.6, RGB555 to NV24 -/
theorem test_narrow_RGB555_NV24 :
    converted .convertRGB555NV24 4 4 48
      [0x20, 0x07, 0x0B, 0x18, 0xF5, 0x28, 0xFF, 0x3D, 0xCA, 0x4E, 0xB4, 0x63, 0xBE, 0x74, 0x89, 0x05, 0x93, 0x1A, 0x7E, 0x2F, 0x48, 0x3C, 0x52, 0x51, 0x3D, 0x62, 0x07, 0x77, 0x11, 0x08, 0xFC, 0x18] =
    [0x77, 0x25, 0x51, 0x84, 0x98, 0xC6, 0x77, 0x49, 0x7C, 0xAB, 0x3D, 0x70, 0x9D, 0xB2, 0x21, 0x4E, 0x45, 0x3A, 0x9F, 0x8F, 0xAD, 0x83, 0xB8, 0x77, 0x5A, 0x7C, 0x66, 0x74, 0xBB, 0xC6, 0x83, 0x5B, 0x8D, 0x50, 0x9E, 0x46, 0x86, 0xAA, 0x90, 0x9F, 0xA2, 0x92, 0x3F, 0x9B, 0xB9, 0x7D, 0xCB, 0x71] := by decide +kernel

/-- Section 2.6, RGB555 to YUY2 -/
theorem test_narrow_RGB555_YUY2 :
    converted .convertRGB555YUY2 4 4 32
      [0x20, 0x07, 0x0B, 0x18, 0xF5, 0x28, 0xFF, 0x3D, 0xCA, 0x4E, 0xB4, 0x63, 0xBE, 0x74, 0x89, 0x05, 0x93, 0x1A, 0x7E, 0x2F, 0x48, 0x3C, 0x52, 0x51, 0x3D, 0x62, 0x07, 0x77, 0x11, 0x08, 0xFC, 0x18] =
    [0x77, 0x72, 0x25, 0x64, 0x51, 0xB2, 0x84, 0x7D, 0x98, 0x60, 0xC6, 0x78, 0x77, 0x9F, 0x49, 0x90, 0x7C, 0x95, 0xAB, 0x4B, 0x3D, 0x8B, 0x70, 0xA4, 0x9D, 0x70, 0xB2, 0x96, 0x21, 0xC2, 0x4E, 0x77] := by decide +kernel

/-- Section 2.6, RGB555 to NV12 -/
theorem test_narrow_RGB555_NV12 :
    converted .convertRGB555NV12 4 4 24
      [0x20, 0x07, 0x0B, 0x18, 0xF5, 0x28, 0xFF, 0x3D, 0xCA, 0x4E, 0xB4, 0x63, 0xBE, 0x74, 0x89, 0x05, 0x93, 0x1A, 0x7E, 0x2F, 0x48, 0x3C, 0x52, 0x51, 0x3D, 0x62, 0x07, 0x77, 0x11, 0x08, 0xFC, 0x18] =
    [0x77, 0x25, 0x51, 0x84, 0x98, 0xC6, 0x77, 0x49, 0x7C, 0xAB, 0x3D, 0x70, 0x9D, 0xB2, 0x21, 0x4E, 0x69, 0x6E, 0xA8, 0x86, 0x83, 0x70, 0xA6, 0x8D] := by decide +kernel

/-- Section 2.6, RGB555 to Y41P -/
theorem test_narrow_RGB555_Y41P :
    converted .convertRGB555Y41P 4 4 24
      [0x20, 0x07, 0x0B, 0x18, 0xF5, 0x28, 0xFF, 0x3D, 0xCA, 0x4E, 0xB4, 0x63, 0xBE, 0x74, 0x89, 0x05, 0x93, 0x1A, 0x7E, 0x2F, 0x48, 0x3C, 0x52, 0x51, 0x3D, 0x62, 0x07, 0x77, 0x11, 0x08, 0xFC, 0x18] =
    [0x92, 0x77, 0x70, 0x25, 0x7F, 0x51, 0x84, 0x84, 0x98, 0xC6, 0x77, 0x49, 0x90, 0x7C, 0x77, 0xAB, 0x99, 0x3D, 0x86, 0x70, 0x9D, 0xB2, 0x21, 0x4E] := by decide +kernel

/-- Section 2.6, RGB555 to YUV9 -/
theorem test_narrow_RGB555_YUV9 :
    converted .convertRGB555YUV9 4 4 18
      [0x20, 0x07, 0x0B, 0x18, 0xF5, 0x28, 0xFF, 0x3D, 0xCA, 0x4E, 0xB4, 0x63, 0xBE, 0x74, 0x89, 0x05, 0x93, 0x1A, 0x7E, 0x2F, 0x48, 0x3C, 0x52, 0x51, 0x3D, 0x62, 0x07, 0x77, 0x11, 0x08, 0xFC, 0x18] =
    [0x77, 0x25, 0x51, 0x84, 0x98, 0xC6, 0x77, 0x49, 0x7C, 0xAB, 0x3D, 0x70, 0x9D, 0xB2, 0x21, 0x4E, 0x8E, 0x7C] := by decide +kernel

/-- Section 2.6, RGB444 to NV24 -/
theorem test_narrow_RGB444_NV24 :
    converted .convertRGB444NV24 4 4 48
      [0xC0, 0x50, 0x30, 0x3A, 0xF5, 0x77, 0xB5, 0xA9, 0xCE, 0x2F, 0x4E, 0x06, 0xA9, 0xF3, 0x5D, 0x14, 0x97, 0xA5, 0x8E, 0x3C, 0xEC, 0x08, 0xE1, 0x33] =
    [0x71, 0x24, 0x4C, 0x7D, 0x96, 0xC2, 0x71, 0x47, 0x7B, 0xA5, 0x3B, 0x70, 0x98, 0xAF, 0x21, 0x4A, 0x49, 0x3A, 0x9C, 0x8F, 0xAC, 0x86, 0xB8, 0x77, 0x5B, 0x79, 0x69, 0x77, 0xBF, 0xC5, 0x80, 0x58, 0x8A, 0x50, 0xA1, 0x46, 0x87, 0xA7, 0x90, 0x9F, 0xA1, 0x95, 0x3C, 0x98, 0xB6, 0x7E, 0xCD, 0x74] := by decide +kernel

/-- Section 2.6, RGB444 to YUY2 -/
theorem test_narrow_RGB444_YUY2 :
    converted .convertRGB444YUY2 4 4 32
      [0xC0, 0x50, 0x30, 0x3A, 0xF5, 0x77, 0xB5, 0xA9, 0xCE, 0x2F, 0x4E, 0x06, 0xA9, 0xF3, 0x5D, 0x14, 0x97, 0xA5, 0x8E, 0x3C, 0xEC, 0x08, 0xE1, 0x33] =
    [0x71, 0x72, 0x24, 0x64, 0x4C, 0xB2, 0x7D, 0x7E, 0x96, 0x62, 0xC2, 0x78, 0x71, 0x9F, 0x47, 0x8E, 0x7B, 0x95, 0xA5, 0x4B, 0x3B, 0x8B, 0x70, 0xA3, 0x98, 0x6E, 0xAF, 0x96, 0x21, 0xC1, 0x4A, 0x79] := by decide +kernel

/-- Section 2.6, RGB444 to NV12 -/
theorem test_narrow_RGB444_NV12 :
    converted .convertRGB444NV12 4 4 24
      [0xC0, 0x50, 0x30, 0x3A, 0xF5, 0x77, 0xB5, 0xA9, 0xCE, 0x2F, 0x4E, 0x06, 0xA9, 0xF3, 0x5D, 0x14, 0x97, 0xA5, 0x8E, 0x3C, 0xEC, 0x08, 0xE1, 0x33] =
    [0x71, 0x24, 0x4C, 0x7D, 0x96, 0xC2, 0x71, 0x47, 0x7B, 0xA5, 0x3B, 0x70, 0x98, 0xAF, 0x21, 0x4A, 0x6A, 0x6E, 0xA8, 0x86, 0x82, 0x70, 0xA6, 0x8E] := by decide +kernel

/-- Section 2.6, RGB444 to Y41P -/
theorem test_narrow_RGB444_Y41P :
    converted .convertRGB444Y41P 4 4 24
      [0xC0, 0x50, 0x30, 0x3A, 0xF5, 0x77, 0xB5, 0xA9, 0xCE, 0x2F, 0x4E, 0x06, 0xA9, 0xF3, 0x5D, 0x14, 0x97, 0xA5, 0x8E, 0x3C, 0xEC, 0x08, 0xE1, 0x33] =
    [0x92, 0x71, 0x71, 0x24, 0x80, 0x4C, 0x83, 0x7D, 0x96, 0xC2, 0x71, 0x47, 0x90, 0x7B, 0x77, 0xA5, 0x98, 0x3B, 0x87, 0x70, 0x98, 0xAF, 0x21, 0x4A] := by decide +kernel

/-- Section 2.6, RGB444 to YUV9 -/
theorem test_narrow_RGB444_YUV9 :
    converted .convertRGB444YUV9 4 4 18
      [0xC0, 0x50, 0x30, 0x3A, 0xF5, 0x77, 0xB5, 0xA9, 0xCE, 0x2F, 0x4E, 0x06, 0xA9, 0xF3, 0x5D, 0x14, 0x97, 0xA5, 0x8E, 0x3C, 0xEC, 0x08, 0xE1, 0x33] =
    [0x71, 0x24, 0x4C, 0x7D, 0x96, 0xC2, 0x71, 0x47, 0x7B, 0xA5, 0x3B, 0x70, 0x98, 0xAF, 0x21, 0x4A, 0x8E, 0x7C] := by decide +kernel

/-- Program 5: RGB888X to YVU9. -/
theorem test_program5 :
    converted .convertRGB888XYVU9 4 4 18
      [0x05, 0xC8, 0x0B, 0xA0, 0x58, 0x03, 0x30, 0xA1, 0xAB, 0x3E, 0x55, 0xA2, 0xFE, 0x79, 0x7A, 0xA3, 0x51, 0xB4, 0x9F, 0xA4, 0xA4, 0xEF, 0xC4, 0xA5, 0xF7, 0x2A, 0xE9, 0xA6, 0x4A, 0x65, 0x0E, 0xA7, 0x9D, 0xA0, 0x33, 0xA8, 0xF0, 0xDB, 0x58, 0xA9, 0x43, 0x16, 0x7D, 0xAA, 0x96, 0x51, 0xA2, 0xAB, 0xE9, 0x8C, 0xC7, 0xAC, 0x3C, 0xC7, 0xEC, 0xAD, 0x8F, 0x02, 0x11, 0xAE, 0xE2, 0x3D, 0x36, 0xAF] =
    [0x78, 0x26, 0x56, 0x85, 0x9C, 0xCB, 0x79, 0x4E, 0x7D, 0xAC, 0x42, 0x71, 0xA1, 0xB7, 0x23, 0x53, 0x7C, 0x8E] := by decide +kernel

/-- Section 4's start state. -/
def refusalBase : State := { image 2 2 6 [] with canAddr := 0x400 }

/-- V-E11 to V-E16, V-P2, V-P3: dimensions and size. -/
theorem test_refusals_dim_size :
    outStatus (exec .convertRGB888YUY2 { refusalBase with width := 3, height := 1 }) = 0x304 ∧
    outStatus (exec .convertRGB888NV12 { refusalBase with width := 1, height := 4 }) = 0x304 ∧
    outStatus (exec .convertRGB888YUV9 { refusalBase with width := 16, height := 1 }) = 0x304 ∧
    outStatus (exec .convertRGB888Y41P { refusalBase with width := 4, height := 1 }) = 0x304 ∧
    outStatus (exec .convertRGB888NV12 { refusalBase with dstLen := 7 }) = 0x404 ∧
    outStatus (exec .convertRGB888NV12 { refusalBase with dstLen := 5 }) = 0x404 ∧
    outStatus (exec .convertRGB888YUY2 { refusalBase with width := 3, height := 1, dstLen := 99 }) = 0x304 ∧
    outStatus (exec .convertRGB888NV12 { refusalBase with dstLen := 7, dstAddr := 0xFFFF }) = 0x404 := by decide +kernel

/-- V-E17 to V-E23, V-P4: ranges and overlap. -/
theorem test_refusals_range_alias :
    outStatus (exec .convertRGB888NV12 { refusalBase with srcAddr := 0xFFF5 }) = 0x504 ∧
    outStatus (exec .convertRGB888NV12 { refusalBase with dstAddr := 0xFFFB }) = 0x504 ∧
    outStatus (exec .convertRGB888NV12 { refusalBase with dstAddr := 0xFFFFFFFE }) = 0x504 ∧
    outStatus (exec .convertRGB888NV12 { refusalBase with dstAddr := 0x10B }) = 0x604 ∧
    outStatus (exec .convertRGB888NV12 { refusalBase with dstAddr := 0xFB }) = 0x604 ∧
    outStatus (exec .normalizeRGB565 { refusalBase with canAddr := 0x104 }) = 0x604 ∧
    outStatus (exec .normalizeRGB565 { refusalBase with canAddr := 0xFFFF }) = 0x504 ∧
    outStatus (exec .convertRGB888NV12 { refusalBase with srcAddr := 0xFFFA, dstAddr := 0xFFFC }) = 0x504 := by
  decide +kernel

/-- Section 4's accepted border cases. -/
theorem test_accepted_borders :
    outStatus (exec .convertRGB888NV12 { refusalBase with dstAddr := 0x10C }) = 2 ∧
    outStatus (exec .convertRGB888NV12 { refusalBase with srcAddr := 0xFFF4 }) = 2 ∧
    outStatus (exec .normalizeRGB888 { refusalBase with canAddr := 0xFFFF }) = 2 ∧
    outStatus (exec .convertRGB888NV12 { refusalBase with dstAddr := 0xFFFA }) = 2 := by decide +kernel

/-- V-E1 and V-E10, V-P1, V-P5: refused words through the step. -/
theorem test_refused_word_steps :
    outStatus (step (refusalBase.given (.regWrite .word 0 0x00040000))) = 0x104 ∧
    outStatus (step (refusalBase.given (.regWrite .word 0 0x00031F00))) = 0x204 ∧
    outStatus (step (State.given { refusalBase with dstLen := 7 } (.regWrite .word 0 0x00031F00))) = 0x204 ∧
    outStatus (step (State.given { refusalBase with dstLen := 7 } (.regWrite .word 0 0x80031F00))) = 0x104 := by
  decide +kernel

/-- Program 7: straight after reset a CONVERT is an empty image; L = 1 is E_SIZE; H = 3 fails YU12 and not YUY2. -/
theorem test_program7 :
    outStatus (step (State.reset.withFetchWord 32 0x00031800)) = 2 ∧
    outStatus (exec .convertRGB888YU12 { State.reset with dstLen := 1 }) = 0x404 ∧
    outStatus (exec .convertRGB888YU12 { State.reset with height := 3 }) = 0x304 ∧
    outStatus (exec .convertRGB888YUY2 { State.reset with height := 3 }) = 2 := by decide +kernel

/-! ### Witnesses: states and operands that meet the hypotheses of each statement -/

/-- A BUSY engine: CONVERT RGB888 to YUY2 of a 2 x 1 image, issued and left running. -/
def running2 : State := cmdIssue 0x00031200 (image 2 1 4 (red ++ green))

/-- ConvertReady at a 4 x 4 image, for a target. -/
theorem ready_of_check (s : State) (src : RgbTag) (dst : YuvTag) (hb : s.status.busy = false)
    (h : issueCheck (.convert src dst) s.cfg (s.latchOf 0) = none) : ConvertReady s src dst :=
  (issueCheck_convert_none s src dst 0 hb).1 h

theorem normalize_ready_of_check (s : State) (src : RgbTag) (hs : src ≠ .rgb888) (hb : s.status.busy = false)
    (h : issueCheck (.normalize src) s.cfg (s.latchOf 0) = none) : NormalizeReady s src :=
  (issueCheck_normalize_none s src 0 hb hs).1 h

/-- DecodeExactlyTheEncodedWords: both directions, at the first and the last word. -/
theorem witness_DecodeExactlyTheEncodedWords :
    decode 0 = .ok .nop ∧ decode 0x00031E04 = .ok .convertRGB888XYUV9 ∧ (0x00031E04 : Word) = encode .convertRGB888XYUV9 := by
  decide +kernel

/-- CommandWordDecodedInOrder: IDLE; a word for each way steps 1 to 4 refuse, and one that runs. -/
theorem witness_CommandWordDecodedInOrder :
    State.reset.status.busy = false ∧
    [0x00100000, 0x00002000, 0x00000020, 0x00040000, 0x00000001, 0x00000100, 0x00010100, 0x00021F00].map
      (fun k => nextIs (step (State.reset.given (.regWrite .word 0 k))) (refusedWith State.reset k 1)) =
        List.replicate 8 true ∧
    [0x00010005, 0x0001000F, 0x0001001F, 0x00020005, 0x00031005, 0x00030F00, 0x00031F00].map
      (fun k => nextIs (step (State.reset.given (.regWrite .word 0 k))) (refusedWith State.reset k 2)) =
        List.replicate 7 true ∧
    nextIs (step (State.reset.given (.regWrite .word 0 0x0001001E))) (nextOr (exec .reqbytesYUV9 State.reset)) = true := by
  decide +kernel

/-- CommandWordDecodedInOrder, the pair clause: a configuration that supports no pair. -/
theorem witness_CommandWordDecodedInOrder_pair :
    (RgbTag.rgb888, YuvTag.nv24) ∉ ({ State.reset.cfg with supportedPairs := [] } : Config).supportedPairs ∧
    outStatus (step (State.given { State.reset with cfg := { State.reset.cfg with supportedPairs := [] } }
      (.regWrite .word 0 0x00031000))) = 0x204 := by decide +kernel

theorem witness_StepRunsDecodedInstruction :
    State.reset.status.busy = false ∧ Instr.wellFormed .reqbytesYU12 = true ∧ decode 0x00010018 = .ok .reqbytesYU12 := by
  decide +kernel

/-- IssueSetsExactlyOneFlag: a word that ends BUSY, one that ends DONE, one that ends ERR. -/
theorem witness_IssueSetsExactlyOneFlag :
    (image 2 1 4 (red ++ green)).status.busy = false ∧ running2.status.busy = true ∧
    (cmdIssue 0 State.reset).status.done = true ∧ (cmdIssue 1 State.reset).status.err = true := by decide +kernel

theorem witness_OnlyAcceptedCommandsLeaveIdle :
    (image 2 1 4 (red ++ green)).status.busy = false ∧
    (nextOr (step ((image 2 1 4 (red ++ green)).given (.cmdIssue 0x00031200)))).status.busy = true := by decide +kernel

theorem witness_AcceptedCommandGoesBusy :
    (image 2 1 4 (red ++ green)).status.busy = false ∧
    issueCheck (.convert .rgb888 .yuy2) (image 2 1 4 (red ++ green)).cfg
      ((image 2 1 4 (red ++ green)).latchOf (Command.convert .rgb888 .yuy2).word) = none ∧
    issueCheck (.normalize .rgb565) (image 2 1 4 (red ++ green)).cfg
      ((image 2 1 4 (red ++ green)).latchOf (Command.normalize .rgb565).word) = none := by decide +kernel

/-- RegisterReads: the offsets from 0x2C on. -/
theorem witness_RegisterReads : 0x2C ≤ 0x2C ∧ 0x2C % 4 = 0 ∧ 0x2C ≤ 0x1000 ∧ 0x1000 % 4 = 0 := by decide

/-- RegisterWrites: IDLE, WIDTH at both ends of its 16 bits, and an engine of 4-bit dimensions and 12-bit addresses. -/
theorem witness_RegisterWrites :
    State.reset.status.busy = false ∧
    (nextOr (step (State.reset.given (.regWrite .word 8 0x0001FFFF)))).width = 0xFFFF ∧
    (nextOr (step (State.reset.given (.regWrite .word 8 0x00010000)))).width = 0 ∧
    (let s := { State.reset with cfg := { State.reset.cfg with aw := 12, dimBits := 4, memSize := 4096 } }
     (nextOr (step (s.given (.regWrite .word 8 0x1F)))).width = 15 ∧
     (nextOr (step (s.given (.regWrite .word 0x10 0x1234)))).srcAddr = 0x234) ∧
    State.reset.cfg.dimBits = 16 ∧ State.reset.cfg.aw = 32 := by decide +kernel

theorem witness_RegistersWhileBusy :
    running2.status.busy = true ∧ 0 % 4 = 0 ∧ 0x28 % 4 = 0 ∧ running2.readReg 4 = 1 := by decide +kernel

theorem witness_NarrowOrMisalignedAccessRefused :
    AccessSize.byte ≠ .word ∧ AccessSize.half ≠ .word ∧ 3 % 4 ≠ 0 ∧ 5 % 4 ≠ 0 ∧ 4 % 4 = 0 := by decide

/-- OperandRegistersAreTheHosts: a step without input, and one of a CMD write. -/
theorem witness_OperandRegistersAreTheHosts :
    nextIs (step State.reset) State.reset = true ∧ State.reset.inbox = [] ∧
    outStatus (step (State.reset.given (.regWrite .word 0 0))) = 2 := by decide +kernel

theorem witness_ResultRegistersWrittenOnlyByTheirCommand :
    (image 3 1 0 []).status.busy = false ∧ (nextOr (exec .reqbytesYUY2 (image 3 1 0 []))).status.err = true ∧
    Instr.nop.command = .nop := by decide +kernel

theorem witness_NopSetsDone :
    State.reset.status.busy = false ∧ (1 : Word) ≠ 0 ∧ (1 : Word).toNat / 2 ^ 16 % 16 = 0 ∧
    (0x80000000 : Word).toNat / 2 ^ 16 % 16 = 0 := by decide

theorem witness_ReqbytesWritesResult :
    (0x00010005#32).toNat / 2 ^ 16 % 16 = 1 ∧ decode 0x00010005 = .error .badFormatTag ∧
    (image 4 4 0 []).status.busy = false ∧ (image 4 4 0 []).pixels % divisor (.yuv .yuv9) = 0 ∧
    (image 3 1 0 []).pixels % divisor (.yuv .yuy2) ≠ 0 := by decide

/-- RgbSizeRules: the bound at the ends of the 16-bit dimensions. -/
theorem witness_RgbSizeRules : (65535 : Nat) ≤ 65535 ∧ (0 : Nat) ≤ 65535 := by decide

/-- BlockSizeRules: 1 x 4 is 4 pixels, and odd in width; 16 x 1 is 16 pixels, and no multiple of 4 in height. -/
theorem witness_BlockSizeRules :
    (image 1 4 0 []).status.busy = false ∧ (image 1 4 0 []).pixels % divisor (.yuv .yu12) = 0 ∧
    (RgbTag.rgb888, YuvTag.yu12) ∈ (image 1 4 0 []).cfg.supportedPairs ∧ (image 1 4 0 []).width.toNat % 2 ≠ 0 ∧
    (image 16 1 0 []).pixels % divisor (.yuv .yuv9) = 0 ∧ (image 16 1 0 []).height.toNat % 4 ≠ 0 := by decide +kernel

/-- UnpackRules: the spec's layouts, an even and an odd pixel. -/
theorem witness_OtherUnpackRules :
    State.reset.cfg.rgb555 = .x1r5g5b5 ∧ State.reset.cfg.rgb444 = .standard ∧ 0 % 2 = 0 ∧ 1 % 2 = 1 := by decide

theorem witness_NormalizeRgb888AliasesSource :
    (image 2 1 0 []).status.busy = false ∧ (image 2 1 0 []).Holds (image 2 1 0 []).srcAddr.toNat
      (3 * (image 2 1 0 []).pixels) :=
  ⟨rfl, .inr (by decide)⟩

theorem witness_NormalizeWritesCanonicalArray :
    RgbTag.rgb444 ≠ .rgb888 ∧ NormalizeReady (image 3 1 0 []) .rgb444 ∧ 2 < (image 3 1 0 []).pixels :=
  ⟨by decide, normalize_ready_of_check _ _ (by decide) rfl (by decide +kernel), by decide⟩

/-- NormalizeRefusals: a source past the end, a canonical array past the end, an overlap. -/
theorem witness_NormalizeRefusals :
    outStatus (exec .normalizeRGB888 { image 2 1 0 [] with srcAddr := 0xFFFB }) = 0x504 ∧
    outStatus (exec .normalizeRGB565 { image 2 1 0 [] with canAddr := 0xFFFB }) = 0x504 ∧
    outStatus (exec .normalizeRGB565 { image 2 1 0 [] with canAddr := 0x103 }) = 0x604 := by decide +kernel

/-- ClampRule: the ends of each clause. -/
theorem witness_ConvertFunctionAndClamp : (-1 : Int) < 0 ∧ (255 : Int) < 256 ∧ (0 : Int) ≤ 0 ∧ (255 : Int) ≤ 255 := by decide

theorem witness_ConvertTo444ByteMap :
    YuvTag.nv42 ∈ [YuvTag.nv24, .nv42] ∧ ConvertReady (image 2 1 6 (red ++ green)) .rgb888 .nv24 ∧
    ConvertReady (image 2 1 6 (red ++ green)) .rgb888x .nv42 :=
  ⟨by decide, ready_of_check _ _ _ rfl (by decide +kernel), ready_of_check _ _ _ rfl (by decide +kernel)⟩

theorem witness_ConvertToYuy2AndUyvy :
    ConvertReady (image 2 1 4 (red ++ green)) .rgb888 .yuy2 ∧ ConvertReady (image 3 2 12 []) .rgb555 .uyvy :=
  ⟨ready_of_check _ _ _ rfl (by decide +kernel), ready_of_check _ _ _ rfl (by decide +kernel)⟩

theorem witness_ConvertToYvyuAndVyuy :
    ConvertReady (image 2 1 4 (red ++ green)) .rgb565 .yvyu ∧ ConvertReady (image 2 1 4 []) .rgb444 .vyuy :=
  ⟨ready_of_check _ _ _ rfl (by decide +kernel), ready_of_check _ _ _ rfl (by decide +kernel)⟩

theorem witness_ConvertToPlanar422ByteMap : ConvertReady (image 2 1 4 (red ++ green)) .rgb888 .p422 :=
  ready_of_check _ _ _ rfl (by decide +kernel)

theorem witness_ConvertToPlanar420ByteMap :
    ConvertReady (image 4 2 12 []) .rgb888 .yv12 ∧ ConvertReady (image 4 2 12 []) .rgb565 .yu12 :=
  ⟨ready_of_check _ _ _ rfl (by decide +kernel), ready_of_check _ _ _ rfl (by decide +kernel)⟩

theorem witness_ConvertToSemiPlanar420ByteMap :
    ConvertReady (image 2 2 6 []) .rgb444 .nv12 ∧ ConvertReady (image 2 2 6 []) .rgb888x .nv21 :=
  ⟨ready_of_check _ _ _ rfl (by decide +kernel), ready_of_check _ _ _ rfl (by decide +kernel)⟩

theorem witness_ConvertTo411ByteMap :
    ConvertReady (image 8 1 12 []) .rgb888 .y41p ∧ ConvertReady (image 4 1 6 []) .rgb555 .p411 :=
  ⟨ready_of_check _ _ _ rfl (by decide +kernel), ready_of_check _ _ _ rfl (by decide +kernel)⟩

theorem witness_ConvertTo410ByteMap :
    ConvertReady (image 4 4 18 []) .rgb888 .yvu9 ∧ ConvertReady (image 8 4 36 []) .rgb444 .yuv9 :=
  ⟨ready_of_check _ _ _ rfl (by decide +kernel), ready_of_check _ _ _ rfl (by decide +kernel)⟩

/-- A whole image of 2 by 2, at its first pixel, which seeds a block, and at its last, which ends it. -/
theorem witness_AccumulatorSeedAndAdd :
    let s := { State.reset with latched := { Latched.reset with w := 2, h := 2, p := 4 } }
    let l := { s with pixel := 3 }
    s.latched.p.toNat = s.latched.w.toNat * s.latched.h.toNat ∧ s.latched.p.toNat % yuvDivisor .yu12 = 0 ∧
    (s.latched.w.toNat % 2 = 0 ∧ s.latched.h.toNat % 2 = 0) ∧ s.pixel.toNat < 4 ∧ l.pixel.toNat < 4 ∧
    groupStep .s420 2 s.pixel.toNat = { entry := 0, first := true, last := false, group := 0, shift := 2 } ∧
    groupStep .s420 2 l.pixel.toNat = { entry := 0, first := false, last := true, group := 0, shift := 2 } := by
  decide

/-- ConvertRefusalsInOrder: each clause met at its border by a test above; the pair clause here. -/
theorem witness_ConvertRefusalsInOrder :
    outStatus (exec .convertRGB888NV12 { refusalBase with cfg := { refusalBase.cfg with supportedPairs := [] } }) = 0x204 ∧
    outStatus (exec .convertRGB888NV12 { refusalBase with width := 1, height := 4, dstLen := 7 }) = 0x304 ∧
    outStatus (exec .convertRGB888NV12 { refusalBase with dstLen := 7 }) = 0x404 ∧
    outStatus (exec .convertRGB888NV12 { refusalBase with dstAddr := 0xFFFB }) = 0x504 ∧
    outStatus (exec .convertRGB888NV12 { refusalBase with dstAddr := 0x10B }) = 0x604 := by decide +kernel

/-- EmptyImage: `W = 0` with a height that fits and one that does not. -/
theorem witness_EmptyImage :
    (image 0 4 0 []).status.busy = false ∧ (image 0 4 0 []).width = 0 ∧ DimsFit .yu12 0 4 ∧ ¬DimsFit .yu12 0 3 ∧
    (image 0 4 0 []).dstLen = 0 ∧ (image 0 4 6 []).dstLen ≠ 0 ∧ (RgbTag.rgb888, YuvTag.yu12) ∈ (image 0 4 0 []).cfg.supportedPairs := by
  refine ⟨rfl, rfl, ⟨by decide, by decide⟩, ?_, rfl, by decide, by decide +kernel⟩
  simp [DimsFit]

/-- UniformImageKeepsItsColour: a red 2 x 2 image (V-U3). -/
theorem witness_UniformImageKeepsItsColour :
    ConvertReady (image 2 2 6 (red ++ red ++ red ++ red)) .rgb888 .yu12 ∧
    ∀ n, n < 4 → (image 2 2 6 (red ++ red ++ red ++ red)).yuvAt .rgb888 n = ⟨0x52, 0x5A, 0xF0⟩ :=
  ⟨ready_of_check _ _ _ rfl (by decide +kernel), by decide +kernel⟩

/-- ConvertIsNormalizeThenConvert: Program 4 (RGB444 to NV24, directly and through the canonical array). -/
theorem witness_ConvertIsNormalizeThenConvert :
    let s := image 3 1 9 [0xBA, 0xFC, 0xED, 0x21, 0xF3]
    let t := nextOr (exec .normalizeRGB444 s)
    RgbTag.rgb444 ≠ .rgb888 ∧ s.status.busy = false ∧ t.status = .doneOnly ∧
    (nextOr (exec .convertRGB444NV24 s)).status = .doneOnly ∧
    (nextOr (exec .convertRGB888NV24 { t with srcAddr := t.canPtr })).status = .doneOnly := by decide +kernel

/-- Program 4's bytes, through the canonical array. -/
theorem test_program4 :
    let s := image 3 1 9 [0xBA, 0xFC, 0xED, 0x21, 0xF3]
    outBytes (exec .convertRGB444NV24 s) 0x200 9 = [0xAA, 0xCA, 0x2E, 0x77, 0x88, 0x8C, 0x85, 0x77, 0x88] := by
  decide +kernel

/-- BytesOutsideTheWriteSetUnchanged: the byte before and the byte after a write set of four bytes. -/
theorem witness_BytesOutsideTheWriteSetUnchanged :
    outStatus (exec .convertRGB888YUY2 (image 2 1 4 (red ++ green))) = 2 ∧
    ¬(0x200 ≤ 0x1FF ∧ 0x1FF < 0x200 + yuvBytes .yuy2 2) ∧ ¬(0x200 ≤ 0x204 ∧ 0x204 < 0x200 + yuvBytes .yuy2 2) := by
  decide +kernel

/-- ResultDependsOnlyOnOperandsAndSource: two states that differ in a byte outside the source and in RESULT. -/
theorem witness_ResultDependsOnlyOnOperandsAndSource :
    let s := image 2 1 4 (red ++ green)
    let s' : State := { s with mem := memWrite s.mem 0x200 0xEE, result := 5 }
    s.status.busy = false ∧ s'.status.busy = false ∧ s'.cfg = s.cfg ∧
    s'.latchOf (encode .convertRGB888YUY2) = s.latchOf (encode .convertRGB888YUY2) ∧ s' ≠ s ∧
    (sourceRange (.convert .rgb888 .yuy2) (s.latchOf 0)) = (0x100, 6) ∧
    memReadBytes s'.mem 0x100 6 = memReadBytes s.mem 0x100 6 ∧
    outStatus (exec .convertRGB888YUY2 s) = 2 := by decide +kernel

/-- PixelByPixelRunEqualsWholeCommand at the 2 x 1 image: two pixels, three moves. -/
theorem witness_PixelByPixelRunEqualsWholeCommand :
    (image 2 1 4 (red ++ green)).status.busy = false ∧
    nextIs (exec .convertRGB888YUY2 (image 2 1 4 (red ++ green))) (State.engineSteps 3 running2) = true := by
  decide +kernel

theorem witness_RunningCommandCompletes :
    running2.status.busy = true ∧ running2.running = some (.convert .rgb888 .yuy2) := by decide +kernel

theorem witness_WaitEnds :
    running2.status.busy = true ∧ running2.running = some (.convert .rgb888 .yuy2) ∧
    nextIs (core.run 3 (running2.given .wait)) (nextOr (core.run 3 (running2.given .wait))) = true := by decide +kernel

/-- HostMemoryAccess: the last bytes of the memory, one byte too many, and no buffer lent. -/
theorem witness_HostMemoryAccess :
    State.reset.Holds 0xFFFE 2 ∧ ¬State.reset.Holds 0xFFFE 3 ∧ State.reset.mayWrite 0xFFFE 2 ∧
    State.reset.mayRead 0xFFFE 2 := by
  refine ⟨.inr (by decide), ?_, fun b hb => by simp [State.reset] at hb, fun b hb => by simp [State.reset] at hb⟩
  rintro (h | h) <;> revert h <;> decide

/-- DisturbanceIsConfined: a write into the source of a running command. -/
theorem witness_DisturbanceIsConfined :
    (nextOr (step (running2.given (.memWrite 0x105 [1])))).disturbed = true ∧ running2.status.busy = true ∧
    running2.lent = [{ srcBase := 0x100, srcLen := 6, dstBase := 0x200, dstLen := 4 }] := by decide +kernel

theorem witness_ResetClearsRegisters : State.reset.status.busy = false := rfl

/-- ResetInMidCommand: one of two pixels done. -/
theorem witness_ResetInMidCommand :
    (image 2 1 4 (red ++ green)).status.busy = false ∧
    (State.engineSteps 1 (cmdIssue (encode .convertRGB888YUY2) (image 2 1 4 (red ++ green)))).status.busy = true := by
  decide +kernel

/-- StepKeepsLegal: a BUSY engine with a pixel done, and its next move. -/
theorem witness_StepKeepsLegal :
    running2.engineStep.Legal ∧ running2.engineStep.status.busy = true ∧
    nextIs (step running2.engineStep) running2.engineStep.engineStep = true :=
  ⟨⟨⟨by decide +kernel, by decide +kernel⟩, by decide +kernel, by decide +kernel, by decide +kernel,
    by decide +kernel, by decide +kernel,
    by decide +kernel, by decide +kernel, by decide +kernel, fun _ => by decide +kernel⟩, by decide +kernel,
    by decide +kernel⟩

end Sys2Proof.Tests
end

section
/-! PROOFS. Family 00_scope.md: the host's register writes at every width R4 allows, and R4's parameters at reset. -/

namespace Sys2Proof.Machine

/-! ### Words cut to a register's width -/

/-- A dimension register is the written word cut to `DIM_BITS`, in its 16-bit field (R23). -/
theorem keepBits_setWidth (k n : Nat) (v : Word) :
    (keepBits k v).setWidth n = BitVec.ofNat n (v.toNat % 2 ^ k) := by
  apply BitVec.eq_of_toNat_eq
  rw [BitVec.toNat_setWidth, keepBits_toNat, BitVec.toNat_ofNat]

/-- Cutting to the field's own width first loses nothing. -/
theorem ofNat_mod_two_pow (n x : Nat) : BitVec.ofNat n (x % 2 ^ n) = BitVec.ofNat n x := by
  apply BitVec.eq_of_toNat_eq
  rw [BitVec.toNat_ofNat, BitVec.toNat_ofNat, Nat.mod_mod]

/-! ### What a host write leaves in each register -/

section Writes
variable (s : State) (offset : Nat) (v : Word)

/-- An aligned word write to any offset but CMD's is the register file's own write, at once (R31). -/
theorem writeGives_iff_writeReg (t : State) (hcmd : offset ≠ 0) (haligned : offset % 4 = 0) :
    WriteGives s offset v t ↔ s.writeReg offset v = t := by
  rw [WriteGives, step_given]
  simp [serve, regWrite, accessRefusal, hcmd, haligned]

/-- Only the six operand registers, offsets 0x08 to 0x1C, can be written; this holds while BUSY too (R21, R22). -/
theorem writeReg_of_not_operand (hoffset : offset < 0x08 ∨ 0x1C < offset) : s.writeReg offset v = s := by
  unfold State.writeReg
  split
  · rfl
  · split
    case h_7 => rfl
    all_goals omega

/-- An aligned offset outside the operand registers and CMD ignores a write (R22). -/
theorem writeGives_of_not_operand (hcmd : offset ≠ 0) (haligned : offset % 4 = 0)
    (hoffset : offset < 0x08 ∨ 0x1C < offset) : WriteGives s offset v s :=
  (writeGives_iff_writeReg s offset v s hcmd haligned).mpr (writeReg_of_not_operand s offset v hoffset)

variable (hidle : s.status.busy = false)
include hidle

theorem writeReg_width :
    s.writeReg 0x08 v = { s with width := BitVec.ofNat 16 (v.toNat % 2 ^ s.cfg.dimBits.val) } := by
  simp [State.writeReg, hidle, keepBits_setWidth]

theorem writeReg_height :
    s.writeReg 0x0C v = { s with height := BitVec.ofNat 16 (v.toNat % 2 ^ s.cfg.dimBits.val) } := by
  simp [State.writeReg, hidle, keepBits_setWidth]

theorem writeReg_srcAddr : s.writeReg 0x10 v = { s with srcAddr := keepBits s.cfg.aw.val v } := by
  simp [State.writeReg, hidle]

theorem writeReg_canAddr : s.writeReg 0x14 v = { s with canAddr := keepBits s.cfg.aw.val v } := by
  simp [State.writeReg, hidle]

theorem writeReg_dstAddr : s.writeReg 0x18 v = { s with dstAddr := keepBits s.cfg.aw.val v } := by
  simp [State.writeReg, hidle]

theorem writeReg_dstLen : s.writeReg 0x1C v = { s with dstLen := v } := by
  simp [State.writeReg, hidle]

end Writes

/-- Settles O12: each offset by the equation of its register, the others by `writeGives_of_not_operand`. -/
theorem registerWrites : Obligations.RegisterWrites := by
  intro s v hidle dim addr
  refine ⟨?width, ?height, ?dim16, ?src, ?can, ?dst, ?addr32, ?len, ?status, ?resultLo, ?resultHi, ?canPtr,
    ?reserved⟩
  case width => exact (writeGives_iff_writeReg s _ v _ (by decide) (by decide)).mpr (writeReg_width s v hidle)
  case height => exact (writeGives_iff_writeReg s _ v _ (by decide) (by decide)).mpr (writeReg_height s v hidle)
  case dim16 =>
    intro h16
    have hbits : s.cfg.dimBits.val = 16 := by rw [h16]; rfl
    rw [show dim = BitVec.ofNat 16 (v.toNat % 2 ^ s.cfg.dimBits.val) from rfl, hbits, ofNat_mod_two_pow]
  case src => exact (writeGives_iff_writeReg s _ v _ (by decide) (by decide)).mpr (writeReg_srcAddr s v hidle)
  case can => exact (writeGives_iff_writeReg s _ v _ (by decide) (by decide)).mpr (writeReg_canAddr s v hidle)
  case dst => exact (writeGives_iff_writeReg s _ v _ (by decide) (by decide)).mpr (writeReg_dstAddr s v hidle)
  case addr32 =>
    intro h32
    have hbits : s.cfg.aw.val = 32 := by rw [h32]; rfl
    rw [show addr = keepBits s.cfg.aw.val v from rfl, hbits, keepBits_word]
  case len => exact (writeGives_iff_writeReg s _ v _ (by decide) (by decide)).mpr (writeReg_dstLen s v hidle)
  case status => exact writeGives_of_not_operand s _ v (by decide) (by decide) (by decide)
  case resultLo => exact writeGives_of_not_operand s _ v (by decide) (by decide) (by decide)
  case resultHi => exact writeGives_of_not_operand s _ v (by decide) (by decide) (by decide)
  case canPtr => exact writeGives_of_not_operand s _ v (by decide) (by decide) (by decide)
  case reserved =>
    intro offset hreserved haligned
    exact writeGives_of_not_operand s offset v (by omega) haligned (by omega)

/-! ### The parameters at reset -/

theorem mem_rgbTag_all (src : RgbTag) : src ∈ RgbTag.all := by cases src <;> decide

theorem mem_yuvTag_all (dst : YuvTag) : dst ∈ YuvTag.all := by cases dst <;> decide

/-- The default of `SUPPORTED_PAIRS` leaves out no pair (R4). -/
theorem mem_allPairs (src : RgbTag) (dst : YuvTag) : (src, dst) ∈ allPairs :=
  List.mem_flatMap.mpr ⟨src, mem_rgbTag_all src, List.mem_map.mpr ⟨dst, mem_yuvTag_all dst, rfl⟩⟩

theorem allPairs_length : allPairs.length = 75 := by decide

/-- A memory that 32-bit addresses reach makes the default parameters well formed (R4). -/
theorem thisHardware_wf_iff (memSize : Nat) :
    (Config.thisHardware memSize).wf ↔ 0 < memSize ∧ memSize ≤ 2 ^ 32 := Iff.rfl

/-- The registers of R21 and R23 bound the widths of every engine (log 7). -/
theorem config_widths_le (c : Config) : c.aw.val ≤ 32 ∧ c.dimBits.val ≤ 16 :=
  ⟨Nat.le_of_lt_succ c.aw.isLt, Nat.le_of_lt_succ c.dimBits.isLt⟩

/-- Settles O53: the reset configuration is `Config.thisHardware`, whose fields are R4's defaults by definition. -/
theorem parametersAtReset : Obligations.ParametersAtReset := by
  refine ⟨rfl, rfl, mem_allPairs, allPairs_length, rfl, rfl, ?memSize, config_widths_le⟩
  case memSize => exact (thisHardware_wf_iff 0x10000).mpr (by decide)

end Sys2Proof.Machine
end
section
/-! PROOFS. Family 10_state.md, the words: a command word's fields are read back from it, and it decodes to its own
instruction (R92, R97); the bits of STATUS (R26). -/

namespace Sys2Proof

/-! ### The word of an instruction decodes to it -/

/-- The six fields of R90 lie apart, and each is read back from the word, bit by bit. -/
theorem ofWord_toWord (f : Fields) : Fields.ofWord f.toWord = f := by
  cases f
  simp only [Fields.ofWord, Fields.toWord, Fields.mk.injEq]
  refine ⟨?z3, ?op, ?z2, ?fb, ?z1, ?fa⟩ <;> ext i hi <;> simp <;> grind

theorem rgbTag_ofNumber_number (t : RgbTag) : RgbTag.ofNumber t.number = some t := by cases t <;> rfl

theorem yuvTag_ofNumber_number (t : YuvTag) : YuvTag.ofNumber t.number = some t := by cases t <;> rfl

theorem tag_ofNumber_number (t : Tag) : Tag.ofNumber t.number = some t := by
  rcases t with t | t <;> cases t <;> rfl

/-- The fields of a command pass steps 1 to 4 of R92. -/
theorem decode_fields (c : Command) : c.fields.decode = .ok c := by
  cases c with
  | nop => rfl
  | reqbytes t =>
    simp [Fields.decode, Command.fields, Command.op, Command.fa, Command.fb, tag_ofNumber_number]
  | normalize src =>
    simp [Fields.decode, Command.fields, Command.op, Command.fa, Command.fb, rgbTag_ofNumber_number]
  | convert src dst =>
    simp [Fields.decode, Command.fields, Command.op, Command.fa, Command.fb, rgbTag_ofNumber_number,
      yuvTag_ofNumber_number]

@[simp] theorem decode_word (c : Command) : decode c.word = .ok c.instr := by
  simp [decode, Command.word, ofWord_toWord, decode_fields]

@[simp] theorem decode_encode (i : Instr) : decode (encode i) = .ok i := by
  simp [encode]

namespace Machine

/-! ### The bits of STATUS -/

/-- Two fields side by side, as a number. -/
theorem toNat_append_eq_add {m n : Nat} (x : BitVec m) (y : BitVec n) :
    (x ++ y).toNat = x.toNat * 2 ^ n + y.toNat := by
  rw [BitVec.toNat_append, ← Nat.shiftLeft_add_eq_or_of_lt y.isLt, Nat.shiftLeft_eq]

/-- Settles O10: the word is its fields side by side, and the two reserved fields are 0. -/
theorem statusWordLayout : Obligations.StatusWordLayout := by
  intro t
  simp only [Status.word, toNat_append_eq_add, BitVec.toNat_ofBool, BitVec.toNat_ofNat]
  omega

end Machine

end Sys2Proof
end

section
/-! PROOFS. Family 10_state.md, the register accesses: what every offset reads as, and which accesses are refused. -/

namespace Sys2Proof.Machine

/-! ### Reads -/

/-- An aligned word read returns the register and logs it (R21, R31). -/
theorem readsAs_iff_readReg (s : State) (offset : Nat) (v : Word) (haligned : offset % 4 = 0) :
    ReadsAs s offset v ↔ s.readLogged offset =
      { s with replies := s.replies ++ [.word v],
               lent := if offset = 4 ∧ s.status.busy = false then [] else s.lent } := by
  rw [ReadsAs, step_given]
  simp [serve, regRead, accessRefusal, haligned]

/-- What an aligned offset reads as is its register (R21). -/
theorem readsAs_of_readReg (s : State) (offset : Nat) (v : Word) (haligned : offset % 4 = 0)
    (hv : s.readReg offset = v) : ReadsAs s offset v := by
  rw [readsAs_iff_readReg s offset v haligned, State.readLogged, hv]
  simp

/-- Offsets past CAN_PTR are reserved (R22, log 12). -/
theorem readReg_reserved (s : State) (offset : Nat) (h : 0x2C ≤ offset) : s.readReg offset = 0 := by
  unfold State.readReg
  split
  case h_11 => rfl
  all_goals omega

/-- RESULT_LO is the low word of RESULT (R28). -/
theorem result_low (r : BitVec 34) : r.extractLsb' 0 32 = BitVec.ofNat 32 r.toNat := by
  apply BitVec.eq_of_toNat_eq
  simp

/-- RESULT_HI is the two bits of RESULT above its low word (R28). -/
theorem result_high (r : BitVec 34) :
    (r.extractLsb' 32 2).setWidth 32 = BitVec.ofNat 32 (r.toNat / 2 ^ 32) := by
  apply BitVec.eq_of_toNat_eq
  simp only [BitVec.toNat_setWidth, BitVec.extractLsb'_toNat, BitVec.toNat_ofNat, Nat.shiftRight_eq_div_pow]
  omega

/-- Settles O11: each offset by its arm of `State.readReg`; RESULT's two words as numbers. -/
theorem registerReads : Obligations.RegisterReads := by
  intro s
  have named (offset : Nat) (v : Word) (haligned : offset % 4 = 0) (hv : s.readReg offset = v) :
      ReadsAs s offset v := readsAs_of_readReg s offset v haligned hv
  refine ⟨named _ _ rfl rfl, named _ _ rfl rfl, named _ _ rfl ?width, named _ _ rfl ?height, named _ _ rfl rfl,
    named _ _ rfl rfl, named _ _ rfl rfl, named _ _ rfl rfl, named _ _ rfl (result_low _),
    named _ _ rfl (result_high _), named _ _ rfl rfl, ?reserved⟩
  case width => exact (BitVec.ofNat_toNat 32 s.width).symm
  case height => exact (BitVec.ofNat_toNat 32 s.height).symm
  case reserved => exact fun offset h haligned => named _ _ haligned (readReg_reserved s offset h)

/-! ### Access sizes and alignment -/

theorem accessRefusal_narrow (size : AccessSize) (offset : Nat) (h : size ≠ .word) :
    accessRefusal size offset = some .narrowRegisterAccess := by
  cases size <;> first | rfl | exact absurd rfl h

theorem accessRefusal_word (offset : Nat) :
    accessRefusal .word offset = if offset % 4 = 0 then none else some .misalignedRegisterAccess := rfl

/-- A refused access stops the machine, a read and a write alike (R31). -/
theorem step_refused_access (s : State) (size : AccessSize) (offset : Nat) (v : Word) (r : Refusal)
    (h : accessRefusal size offset = some r) :
    step (s.given (.regRead size offset)) = .refused r ∧
      step (s.given (.regWrite size offset v)) = .refused r := by
  rw [step_given, step_given]
  simp [serve, regRead, regWrite, h]

/-- A CMD write never stops the machine (R269). -/
theorem cmdWrite_next (k : Word) (s : State) : ∃ t, cmdWrite k s = .next t := by
  unfold cmdWrite
  split
  · exact ⟨_, rfl⟩
  · split
    · exact ⟨_, exec_eq _ s⟩
    · exact ⟨_, rfl⟩

/-- Settles O14: the three cases of `accessRefusal`. -/
theorem narrowOrMisalignedAccessRefused : Obligations.NarrowOrMisalignedAccessRefused := by
  intro s size offset v
  refine ⟨fun hsize => ?narrow, fun hsize hoffset => ?misaligned, fun hsize hoffset => ?aligned⟩
  case narrow => exact step_refused_access s size offset v _ (accessRefusal_narrow size offset hsize)
  case misaligned =>
    subst hsize
    exact step_refused_access s .word offset v _ (by rw [accessRefusal_word, if_neg hoffset])
  case aligned =>
    subst hsize
    have hnone : accessRefusal .word offset = none := by rw [accessRefusal_word, if_pos hoffset]
    refine ⟨⟨s.readLogged offset, by simp [step_given, serve, regRead, hnone]⟩, ?write⟩
    rw [step_given]
    rcases eq_or_ne offset 0 with rfl | hcmd
    · obtain ⟨t, ht⟩ := cmdWrite_next v s
      exact ⟨t, by simp [serve, regWrite, hnone, ht]⟩
    · exact ⟨s.writeReg offset v, by simp [serve, regWrite, hnone, hcmd]⟩

end Sys2Proof.Machine
end

section
/-! PROOFS. Family 10_state.md, the life of a command: its issue, its run and its end (R24 to R33), and that the run
pixel by pixel is the whole command (R248). -/

namespace Sys2Proof

/-- The commands that run pixel by pixel while BUSY (R26, R32); NOP and REQBYTES complete at issue. -/
def Command.PerPixel (c : Command) : Prop := (∃ src, c = .normalize src) ∨ ∃ src dst, c = .convert src dst

namespace Machine

/-! ### STATUS along a command's life -/

theorem issued_refused (t : Status) (e : ErrorCode) (hidle : t.busy = false) :
    t.issued.refused e = .errOnly e.number := by
  simp [Status.refused, Status.issued, Status.errOnly, hidle]

@[simp] theorem issued_accepted_completed (t : Status) : t.issued.accepted.completed = .doneOnly := rfl

/-! ### Issue -/

/-- The checks read the operands and not the latched word (R263). -/
theorem issueCheck_latchOf (c : Command) (cfg : Config) (s : State) (k k' : Word) :
    issueCheck c cfg (s.latchOf k) = issueCheck c cfg (s.latchOf k') := by cases c <;> rfl

/-- An accepted NORMALIZE or CONVERT starts (R26, R32). -/
theorem begin_accepted (s : State) (c : Command) (hc : c.PerPixel)
    (h : issueCheck c s.cfg (s.latchOf c.word) = none) : s.begin c = (s.issue c.word).start c := by
  rcases hc with ⟨src, rfl⟩ | ⟨src, dst, rfl⟩ <;> simp [State.begin, h]

/-- STATUS after an issue while IDLE (R26): BUSY only where an accepted command runs pixel by pixel. -/
theorem begin_status (s : State) (c : Command) (hidle : s.status.busy = false) :
    ((s.begin c).status = { busy := true, done := false, err := false, errCode := 0 } ∧ c.PerPixel ∧
      issueCheck c s.cfg (s.latchOf c.word) = none) ∨
    (s.begin c).status = .doneOnly ∨ ∃ e : ErrorCode, (s.begin c).status = .errOnly e.number := by
  rcases begin_cases s c with
    ⟨e, -, hb⟩ | ⟨hnone, ⟨-, hb⟩ | ⟨t, -, hb⟩ | ⟨src, hc, hb⟩ | ⟨src, dst, hc, hb⟩⟩
  · exact .inr (.inr ⟨e, by rw [hb]; exact issued_refused _ e hidle⟩)
  · exact .inr (.inl (by rw [hb]; rfl))
  · exact .inr (.inl (by rw [hb]; rfl))
  · exact .inl ⟨by rw [hb]; rfl, .inl ⟨src, hc⟩, hnone⟩
  · exact .inl ⟨by rw [hb]; rfl, .inr ⟨src, dst, hc⟩, hnone⟩

/-- Settles O9: the step issues the decoded command, which starts. -/
theorem acceptedCommandGoesBusy : Obligations.AcceptedCommandGoesBusy := by
  intro s c hidle hc hnone
  have hissue : cmdIssue c.word s = (s.issue c.word).start c := by
    simp [cmdIssue, hidle, begin_accepted s c hc hnone]
  rw [step_given, serve, hissue]
  rfl

/-! ### Whole commands -/

/-- A whole command from IDLE: refused, complete at issue, or run to its end (R25, R33, R248, R263). -/
theorem perform_cases (s : State) (c : Command) (hidle : s.status.busy = false) :
    (∃ e, s.perform c = s.refuse c.word e) ∨
    (c = .nop ∧ s.perform c = (s.issue c.word).complete) ∨
    (∃ t, c = .reqbytes t ∧ s.perform c =
      { (s.issue c.word).complete with result := BitVec.ofNat 34 (requiredBytes t s.pixels) }) ∨
    (c.PerPixel ∧ s.perform c = (State.pixelSteps c s.pixels ((s.issue c.word).start c)).finish c) := by
  have atIssue (hb : (s.begin c).status.busy = false) : s.perform c = s.begin c := by
    simp [State.perform, hidle, hb]
  rcases begin_cases s c with
    ⟨e, he, -⟩ | ⟨hnone, ⟨hc, hb⟩ | ⟨t, hc, hb⟩ | ⟨src, hc, -⟩ | ⟨src, dst, hc, -⟩⟩
  · exact .inl ⟨e, perform_refused s c e hidle he⟩
  · exact .inr (.inl ⟨hc, by rw [atIssue (by rw [hb]; rfl), hb]⟩)
  · exact .inr (.inr (.inl ⟨t, hc, by rw [atIssue (by rw [hb]; rfl), hb]⟩))
  · have hpp : c.PerPixel := .inl ⟨src, hc⟩
    exact .inr (.inr (.inr ⟨hpp, perform_accepted s c hidle hpp hnone⟩))
  · have hpp : c.PerPixel := .inr ⟨src, dst, hc⟩
    exact .inr (.inr (.inr ⟨hpp, perform_accepted s c hidle hpp hnone⟩))

/-- STATUS after a whole command (R26, R301): DONE alone, or ERR with a code. -/
theorem perform_status (s : State) (c : Command) (hidle : s.status.busy = false) :
    (s.perform c).status = .doneOnly ∨ ∃ e : ErrorCode, (s.perform c).status = .errOnly e.number := by
  rcases perform_cases s c hidle with ⟨e, hp⟩ | ⟨-, hp⟩ | ⟨t, -, hp⟩ | ⟨-, hp⟩
  · exact .inr ⟨e, by rw [hp]; exact issued_refused _ e hidle⟩
  · exact .inl (by rw [hp]; rfl)
  · exact .inl (by rw [hp]; rfl)
  · exact .inl (by simp [hp])

/-- While IDLE a CMD write decodes its word, and refuses it or performs its command (R25, R92). -/
theorem cmdWrite_idle (k : Word) (s : State) (hidle : s.status.busy = false) :
    (∃ i, decode k = .ok i ∧ cmdWrite k s = .next (s.perform i.command)) ∨
    (∃ e, decode k = .error e ∧ cmdWrite k s = .next (s.refuse k (decodeErrorCode e))) := by
  cases hk : decode k with
  | ok i => exact .inl ⟨i, rfl, by simp [cmdWrite, hidle, hk, exec_eq]⟩
  | error e => exact .inr ⟨e, rfl, by simp [cmdWrite, hidle, hk]⟩

/-- While IDLE an issue decodes its word, and refuses it or begins its command (R25, R92). -/
theorem cmdIssue_idle (k : Word) (s : State) (hidle : s.status.busy = false) :
    (∃ i, decode k = .ok i ∧ cmdIssue k s = s.begin i.command) ∨
    (∃ e, decode k = .error e ∧ cmdIssue k s = s.refuse k (decodeErrorCode e)) := by
  cases hk : decode k with
  | ok i => exact .inl ⟨i, rfl, by simp [cmdIssue, hidle, hk]⟩
  | error e => exact .inr ⟨e, rfl, by simp [cmdIssue, hidle, hk]⟩

/-- Settles O7: a word that does not decode is refused; of a command, by `begin_status` and `perform_status`. -/
theorem issueSetsExactlyOneFlag : Obligations.IssueSetsExactlyOneFlag := by
  intro s k hidle
  constructor
  · rcases cmdIssue_idle k s hidle with ⟨i, -, hi⟩ | ⟨e, -, he⟩
    · rw [hi]
      exact (begin_status s i.command hidle).imp_left And.left
    · exact .inr (.inr ⟨decodeErrorCode e, by rw [he]; exact issued_refused _ _ hidle⟩)
  · rcases cmdWrite_idle k s hidle with ⟨i, -, hi⟩ | ⟨e, -, he⟩
    · exact ⟨_, hi, perform_status s i.command hidle⟩
    · exact ⟨_, he, .inr ⟨decodeErrorCode e, issued_refused _ _ hidle⟩⟩

/-- Settles O5: the step takes the CMD write, and `withFetchWord` is one of a word that decodes to its instruction. -/
theorem stepRunsDecodedInstruction : Obligations.StepRunsDecodedInstruction := by
  intro s k i hidle _
  have ofDecode (k : Word) (hk : decode k = .ok i) : step (s.given (.regWrite .word 0 k)) = exec i s := by
    rw [step_given]
    simp [serve, regWrite, accessRefusal_word, cmdWrite, hidle, hk]
  have hword : BitVec.ofNat 32 ((encode i).toNat % 2 ^ 32) = encode i := by
    rw [ofNat_mod_two_pow, BitVec.ofNat_toNat, BitVec.setWidth_eq]
  refine ⟨ofDecode k, ?fetched⟩
  have hgiven : s.withFetchWord 32 (encode i).toNat = s.given (.regWrite .word 0 (encode i)) := by
    rw [State.withFetchWord, State.putCommand, hword, State.given]
  rw [hgiven]
  exact ofDecode _ (decode_encode i)

/-! ### What a command leaves -/

/-- Only NORMALIZE writes CAN_PTR (R29). -/
theorem canPtrAfter_of_not_normalize (s : State) (c : Command) (h : ∀ src, c ≠ .normalize src) :
    s.canPtrAfter c = s.canPtr := by
  cases c with
  | normalize src => exact absurd rfl (h src)
  | _ => rfl

/-- Settles O16: the four ends of a command, by `perform_cases`; only the first leaves ERR. -/
theorem resultRegistersWrittenOnlyByTheirCommand : Obligations.ResultRegistersWrittenOnlyByTheirCommand := by
  intro i s t hidle hexec
  rw [exec_eq] at hexec
  cases hexec
  rcases perform_cases s i.command hidle with ⟨e, hp⟩ | ⟨-, hp⟩ | ⟨g, hc, hp⟩ | ⟨-, hp⟩ <;> rw [hp]
  · exact ⟨fun _ => rfl, fun _ => rfl, fun _ => ⟨rfl, rfl, rfl, rfl, rfl⟩⟩
  · exact ⟨fun _ => rfl, fun _ => rfl, fun herr => absurd herr Bool.false_ne_true⟩
  · exact ⟨fun h => absurd hc (h g), fun _ => rfl, fun herr => absurd herr Bool.false_ne_true⟩
  · refine ⟨fun _ => by simp, fun h => ?canPtr, fun herr => ?notRefused⟩
    case canPtr => simp [canPtrAfter_of_not_normalize _ _ h]
    case notRefused => simp [Status.doneOnly] at herr

/-! ### Pixel by pixel -/

/-- The pixel counter does not wrap while a pixel is left (R33). -/
theorem pixelStep_pixel_toNat (s : State) (c : Command) (h : s.pixel.toNat < s.latched.p.toNat) :
    (s.pixelStep c).pixel.toNat = s.pixel.toNat + 1 := by
  have hp := s.latched.p.isLt
  rw [State.pixelStep_pixel, BitVec.toNat_add]
  exact Nat.mod_eq_of_lt (by simp; omega)

/-- One pixel of a run, done ahead, leaves the rest of the run (R248). -/
theorem runToEnd_pixelStep (s : State) (c : Command) (h : s.pixel.toNat < s.latched.p.toNat) :
    (s.pixelStep c).runToEnd c = s.runToEnd c := by
  obtain ⟨k, hk⟩ : ∃ k, s.latched.p.toNat - s.pixel.toNat = k + 1 := ⟨_, (Nat.succ_pred (by omega)).symm⟩
  have hk' : s.latched.p.toNat - (s.pixel.toNat + 1) = k := by omega
  rw [State.runToEnd, State.runToEnd, State.pixelStep_latched, pixelStep_pixel_toNat s c h, hk, hk']
  rfl

/-- With no pixel left the run is the completion alone. -/
theorem runToEnd_last (s : State) (c : Command) (h : s.latched.p.toNat ≤ s.pixel.toNat) :
    s.runToEnd c = s.finish c := by
  rw [State.runToEnd, Nat.sub_eq_zero_of_le h]
  rfl

theorem engineSteps_succ (k : Nat) (s : State) :
    State.engineSteps (k + 1) s = State.engineSteps k s.engineStep := rfl

theorem engineStep_idle (s : State) (h : s.status.busy = false) : s.engineStep = s := by
  simp [State.engineStep, h]

/-- An IDLE engine makes no move (R32). -/
theorem engineSteps_idle (k : Nat) (s : State) (h : s.status.busy = false) : State.engineSteps k s = s := by
  induction k with
  | zero => rfl
  | succ k ih => rw [engineSteps_succ, engineStep_idle s h, ih]

theorem engineStep_running (s : State) (c : Command) (hbusy : s.status.busy = true) (hc : s.running = some c) :
    s.engineStep = s.advance c := by
  simp [State.engineStep, hbusy, hc]

@[simp] theorem pixelStep_running (s : State) (c : Command) : (s.pixelStep c).running = s.running := by
  simp [State.running]

theorem finish_idle (s : State) (c : Command) : (s.finish c).status.busy = false := by
  simp [Status.completed]

/-- A BUSY engine left alone for one move more than it has pixels left runs its command to the end (R248). -/
theorem engineSteps_eq_runToEnd (k : Nat) (s : State) (c : Command) (hbusy : s.status.busy = true)
    (hc : s.running = some c) (hk : s.latched.p.toNat - s.pixel.toNat = k) :
    State.engineSteps (k + 1) s = s.runToEnd c := by
  induction k generalizing s with
  | zero =>
    have hlast : s.latched.p.toNat ≤ s.pixel.toNat := by omega
    have hadvance : s.advance c = s.finish c := by
      rcases advance_cases s c with ⟨h, -⟩ | ⟨h, -⟩ | ⟨-, h⟩
      · omega
      · omega
      · exact h
    rw [engineSteps_succ, engineStep_running s c hbusy hc, hadvance, runToEnd_last s c hlast]
    rfl
  | succ k ih =>
    rw [engineSteps_succ, engineStep_running s c hbusy hc]
    rcases advance_cases s c with ⟨hleft, -, h⟩ | ⟨hleft, hone, h⟩ | ⟨hnone, -⟩
    · have hk' : (s.pixelStep c).latched.p.toNat - (s.pixelStep c).pixel.toNat = k := by
        rw [State.pixelStep_latched, pixelStep_pixel_toNat s c hleft]
        omega
      rw [h, ih (s.pixelStep c) (by simp [hbusy]) (by simp [hc]) hk', runToEnd_pixelStep s c hleft]
    · have hlast : (s.pixelStep c).latched.p.toNat ≤ (s.pixelStep c).pixel.toNat := by
        rw [State.pixelStep_latched, pixelStep_pixel_toNat s c hleft]
        omega
      rw [h, engineSteps_idle _ _ (finish_idle _ c), ← runToEnd_pixelStep s c hleft, runToEnd_last _ c hlast]
    · omega

/-- Settles O44: a command that does not start ends at its issue in both forms; one that starts has `P` pixels left,
which `engineSteps_eq_runToEnd` runs. -/
theorem pixelByPixelRunEqualsWholeCommand : Obligations.PixelByPixelRunEqualsWholeCommand := by
  intro i s hidle
  have hissue : cmdIssue (encode i) s = s.begin i.command := by simp [cmdIssue, hidle]
  rw [exec_eq, hissue, State.perform, if_neg (by simp [hidle])]
  congr 1
  rcases begin_status s i.command hidle with ⟨hstatus, hc, hnone⟩ | hdone | ⟨e, herr⟩
  · have hbegin := begin_accepted s i.command hc hnone
    have hleft : (s.begin i.command).latched.p.toNat - (s.begin i.command).pixel.toNat = s.pixels := by
      simp [hbegin]
    have hrunning : (s.begin i.command).running = some i.command := by
      simp [State.running, hbegin, State.latchOf]
    have hbusy : (s.begin i.command).status.busy = true := by rw [hstatus]
    rw [engineSteps_eq_runToEnd _ _ _ hbusy hrunning hleft]
    simp [hbusy]
  · have hend : (s.begin i.command).status.busy = false := by rw [hdone]; rfl
    rw [engineSteps_idle _ _ hend]
    simp [hend]
  · have hend : (s.begin i.command).status.busy = false := by rw [herr]; rfl
    rw [engineSteps_idle _ _ hend]
    simp [hend]

end Machine

end Sys2Proof
end

section
/-! PROOFS. Family 10_state.md, the step: all that taking one input can do, and from it who leaves IDLE (R32), who
changes the operand registers (R21, R23, R38) and what a reset leaves (R40, R290). -/

namespace Sys2Proof.Machine

/-! ### Disturbing lent buffers -/

/-- Disturbing the buffers of completed commands changes the memory and counts draws, no more (R71). -/
theorem disturbFinished_eq (bs : List Lending) (a len : Nat) (s : State) :
    ∃ m n, s.disturbFinished a len bs = { s with mem := m, draws := n } := by
  induction bs generalizing s with
  | nil => exact ⟨s.mem, s.draws, rfl⟩
  | cons b bs ih =>
    rw [State.disturbFinished]
    split
    · obtain ⟨m, n, h⟩ := ih (s.scramble b.dstBase b.dstLen)
      exact ⟨m, n, h⟩
    · exact ih s

/-- A host write to lent buffers changes the memory, counts draws and may mark the running command, no more (R71). -/
theorem disturb_eq (s : State) (a len : Nat) :
    ∃ m n d, s.disturb a len = { s with mem := m, draws := n, disturbed := d } := by
  have finished (bs : List Lending) : ∃ m n d,
      s.disturbFinished a len bs = { s with mem := m, draws := n, disturbed := d } :=
    let ⟨m, n, h⟩ := disturbFinished_eq bs a len s
    ⟨m, n, s.disturbed, h⟩
  unfold State.disturb
  split
  · split
    · exact ⟨s.mem, s.draws, s.disturbed, rfl⟩
    · rename_i b bs _
      obtain ⟨m, n, d, h⟩ := finished bs
      dsimp only
      split
      · exact ⟨m, n, true, by rw [h]⟩
      · exact ⟨m, n, d, h⟩
  · exact finished s.lent

/-! ### What taking an input can do -/

/-- All the machine can do with one input, `t` the state it leaves: one constructor for each way an input is taken
without a stop. -/
inductive Takes (s : State) : Event → State → Prop where
  | registerWrite {size : AccessSize} {offset : Nat} {v : Word} (hcmd : offset ≠ 0) :
      Takes s (.regWrite size offset v) (s.writeReg offset v)
  | commandIgnored {size : AccessSize} {k : Word} (hbusy : s.status.busy = true) : Takes s (.regWrite size 0 k) s
  | commandPerformed {size : AccessSize} {k : Word} {i : Instr} (hidle : s.status.busy = false)
      (hk : decode k = .ok i) : Takes s (.regWrite size 0 k) (s.perform i.command)
  | commandRefused {size : AccessSize} {k : Word} {e : DecodeError} (hidle : s.status.busy = false)
      (hk : decode k = .error e) : Takes s (.regWrite size 0 k) (s.refuse k (decodeErrorCode e))
  | issueIgnored {k : Word} (hbusy : s.status.busy = true) : Takes s (.cmdIssue k) s
  | issueBegun {k : Word} {i : Instr} (hidle : s.status.busy = false) (hk : decode k = .ok i) :
      Takes s (.cmdIssue k) (s.begin i.command)
  | issueRefused {k : Word} {e : DecodeError} (hidle : s.status.busy = false) (hk : decode k = .error e) :
      Takes s (.cmdIssue k) (s.refuse k (decodeErrorCode e))
  | registerRead {size : AccessSize} {offset : Nat} : Takes s (.regRead size offset) (s.readLogged offset)
  | memoryWrite {a : Nat} {bytes : List Byte} (hin : inside s.cfg.memSize a bytes.length = true) :
      Takes s (.memWrite a bytes) (State.disturb { s with mem := memWriteBytes s.mem a bytes } a bytes.length)
  | memoryRead {a len : Nat} (hin : inside s.cfg.memSize a len = true) :
      Takes s (.memRead a len)
        { s with replies := s.replies ++ [.bytes (s.hostBytes s.draws a len)], draws := s.draws + len }
  | engineMove : Takes s .engine s.engineStep
  | waitMove (hbusy : s.status.busy = true) : Takes s .wait { s.engineStep with inbox := .wait :: s.inbox }
  | waitOver (hidle : s.status.busy = false) : Takes s .wait (s.readLogged 4)
  | reset : Takes s .reset s.applyReset

theorem takes_of_cmdWrite (size : AccessSize) (k : Word) (s t : State) (h : cmdWrite k s = .next t) :
    Takes s (.regWrite size 0 k) t := by
  cases hb : s.status.busy with
  | true =>
    rw [cmdWrite, if_pos hb] at h
    cases h
    exact .commandIgnored hb
  | false =>
    rcases cmdWrite_idle k s hb with ⟨i, hk, hi⟩ | ⟨e, hk, he⟩
    · cases hi.symm.trans h
      exact .commandPerformed hb hk
    · cases he.symm.trans h
      exact .commandRefused hb hk

theorem takes_cmdIssue (k : Word) (s : State) : Takes s (.cmdIssue k) (cmdIssue k s) := by
  cases hb : s.status.busy with
  | true =>
    rw [cmdIssue, if_pos hb]
    exact .issueIgnored hb
  | false =>
    rcases cmdIssue_idle k s hb with ⟨i, hk, hi⟩ | ⟨e, hk, he⟩
    · exact hi ▸ .issueBegun hb hk
    · exact he ▸ .issueRefused hb hk

/-- An input that leaves a next state is taken in one of these ways. -/
theorem takes_of_serve (e : Event) (s t : State) (h : serve e s = .next t) : Takes s e t := by
  cases e with
  | regWrite size offset v =>
    simp only [serve, regWrite] at h
    split at h
    · cases h
    · split at h
      case isTrue hcmd =>
        subst hcmd
        exact takes_of_cmdWrite size v s t h
      case isFalse hcmd =>
        cases h
        exact .registerWrite hcmd
  | cmdIssue k =>
    cases h
    exact takes_cmdIssue k s
  | regRead size offset =>
    simp only [serve, regRead] at h
    split at h
    · cases h
    · cases h
      exact .registerRead
  | memWrite a bytes =>
    simp only [serve, hostWrite] at h
    split at h
    case isTrue hin =>
      cases h
      exact .memoryWrite hin
    case isFalse => cases h
  | memRead a len =>
    simp only [serve, hostRead] at h
    split at h
    case isTrue hin =>
      cases h
      exact .memoryRead hin
    case isFalse => cases h
  | engine =>
    cases h
    exact .engineMove
  | wait =>
    simp only [serve] at h
    split at h
    case isTrue hbusy =>
      cases h
      exact .waitMove hbusy
    case isFalse hbusy =>
      cases h
      exact .waitOver (by simpa using hbusy)
  | reset =>
    cases h
    exact .reset

/-- A step is the engine's own move where no input waits, else it takes the first one. -/
theorem step_cases (s t : State) (h : step s = .next t) :
    (s.inbox = [] ∧ t = s.engineStep) ∨
    ∃ e rest, s.inbox = e :: rest ∧ Takes { s with inbox := rest } e t := by
  rw [step, serveNext] at h
  split at h
  case h_1 hin =>
    cases h
    exact .inl ⟨hin, rfl⟩
  case h_2 e rest hin => exact .inr ⟨e, rest, hin, takes_of_serve e _ t h⟩

/-! ### What a reset leaves -/

/-- A reset puts every register to its reset value; it takes a memory and a count of draws, the machine's own ones if
the engine was IDLE (R290, R291). -/
theorem applyReset_eq (s : State) :
    ∃ m n, s.applyReset = State.resetRegisters { s with mem := m, draws := n } ∧
      (s.status.busy = false → m = s.mem) := by
  unfold State.applyReset
  split
  case isTrue hbusy =>
    have hnot (m : List Host.Cell) (hidle : s.status.busy = false) : m = s.mem := by
      rw [hbusy] at hidle
      cases hidle
    split
    · exact ⟨_, _, rfl, hnot _⟩
    · exact ⟨s.mem, s.draws, rfl, fun _ => rfl⟩
  case isFalse => exact ⟨s.mem, s.draws, rfl, fun _ => rfl⟩

theorem applyReset_status (s : State) : s.applyReset.status = Status.reset := by
  obtain ⟨m, n, h, -⟩ := applyReset_eq s
  rw [h, State.resetRegisters_status]

theorem applyReset_cfg (s : State) : s.applyReset.cfg = s.cfg := by
  obtain ⟨m, n, h, -⟩ := applyReset_eq s
  rw [h, State.resetRegisters_cfg]

/-! ### Leaving IDLE -/

theorem refuse_idle (s : State) (k : Word) (e : ErrorCode) (hidle : s.status.busy = false) :
    (s.refuse k e).status.busy = false := by
  rw [State.refuse_status, issued_refused _ _ hidle]
  rfl

theorem writeReg_status (s : State) (offset : Nat) (v : Word) : (s.writeReg offset v).status = s.status := by
  rcases writeReg_cases s offset v with h | ⟨-, h | h | h | h | h | h⟩ <;> rw [h]

/-- A whole command ends IDLE. -/
theorem perform_idle (s : State) (c : Command) (hidle : s.status.busy = false) :
    (s.perform c).status.busy = false := by
  rcases perform_status s c hidle with h | ⟨e, h⟩ <;> rw [h] <;> rfl

/-- An issue that leaves the engine BUSY is of an accepted command (R32). -/
theorem begin_busy (s : State) (c : Command) (hidle : s.status.busy = false)
    (hbusy : (s.begin c).status.busy = true) : c.PerPixel ∧ issueCheck c s.cfg (s.latchOf c.word) = none := by
  rcases begin_status s c hidle with ⟨-, hc, hnone⟩ | h | ⟨e, h⟩
  · exact ⟨hc, hnone⟩
  · rw [h] at hbusy
    cases hbusy
  · rw [h] at hbusy
    cases hbusy

/-- The one input that makes an IDLE engine BUSY is the issue of a command (R32). -/
theorem takes_idle (s t : State) (e : Event) (hidle : s.status.busy = false) (h : Takes s e t) :
    t.status.busy = false ∨ ∃ k i, e = .cmdIssue k ∧ decode k = .ok i ∧ t = s.begin i.command := by
  cases h with
  | registerWrite => exact .inl (by rw [writeReg_status, hidle])
  | commandIgnored => exact .inl hidle
  | commandPerformed => exact .inl (perform_idle s _ hidle)
  | commandRefused => exact .inl (refuse_idle s _ _ hidle)
  | issueIgnored => exact .inl hidle
  | issueBegun _ hk => exact .inr ⟨_, _, rfl, hk, rfl⟩
  | issueRefused => exact .inl (refuse_idle s _ _ hidle)
  | registerRead => exact .inl hidle
  | memoryWrite =>
    obtain ⟨m, n, d, hd⟩ := disturb_eq { s with mem := memWriteBytes s.mem _ _ } _ _
    exact .inl (by rw [hd]; exact hidle)
  | memoryRead => exact .inl hidle
  | engineMove => exact .inl (by rw [engineStep_idle s hidle, hidle])
  | waitMove => exact .inl (by rw [engineStep_idle s hidle]; exact hidle)
  | waitOver => exact .inl hidle
  | reset => exact .inl (by rw [applyReset_status]; rfl)

/-- Settles O8: an IDLE engine makes no move of its own, and of the inputs `takes_idle` leaves the issue. -/
theorem onlyAcceptedCommandsLeaveIdle : Obligations.OnlyAcceptedCommandsLeaveIdle := by
  intro s t hidle hstep hbusy
  have notIdle (h : t.status.busy = false) : False := Bool.false_ne_true (h.symm.trans hbusy)
  rcases step_cases s t hstep with ⟨-, rfl⟩ | ⟨e, rest, hinbox, htakes⟩
  · exact (notIdle (by rw [engineStep_idle s hidle, hidle])).elim
  · rcases takes_idle { s with inbox := rest } t e hidle htakes with h | ⟨k, i, rfl, hk, rfl⟩
    · exact (notIdle h).elim
    · obtain ⟨hc, hnone⟩ := begin_busy { s with inbox := rest } i.command hidle hbusy
      refine ⟨k, rest, i.command, hinbox, by rw [instr_command, hk], hc, ?_⟩
      rw [issueCheck_latchOf i.command s.cfg s k i.command.word]
      exact hnone

/-! ### The operand registers -/

/-- The configuration and the six operand registers of `t` are those of `s` (R21). -/
structure OperandsKept (s t : State) : Prop where
  cfg : t.cfg = s.cfg
  width : t.width = s.width
  height : t.height = s.height
  srcAddr : t.srcAddr = s.srcAddr
  canAddr : t.canAddr = s.canAddr
  dstAddr : t.dstAddr = s.dstAddr
  dstLen : t.dstLen = s.dstLen

theorem OperandsKept.rfl {s : State} : OperandsKept s s := by constructor <;> rfl

theorem OperandsKept.trans {s t u : State} (h : OperandsKept s t) (h' : OperandsKept t u) : OperandsKept s u := by
  constructor
  · exact h'.cfg.trans h.cfg
  · exact h'.width.trans h.width
  · exact h'.height.trans h.height
  · exact h'.srcAddr.trans h.srcAddr
  · exact h'.canAddr.trans h.canAddr
  · exact h'.dstAddr.trans h.dstAddr
  · exact h'.dstLen.trans h.dstLen

theorem OperandsKept.registers {s t : State} (h : OperandsKept s t) :
    t.width = s.width ∧ t.height = s.height ∧ t.srcAddr = s.srcAddr ∧ t.canAddr = s.canAddr ∧
      t.dstAddr = s.dstAddr ∧ t.dstLen = s.dstLen :=
  ⟨h.width, h.height, h.srcAddr, h.canAddr, h.dstAddr, h.dstLen⟩

theorem refuse_operandsKept (s : State) (k : Word) (e : ErrorCode) : OperandsKept s (s.refuse k e) := by
  constructor <;> rfl

theorem start_operandsKept (s : State) (k : Word) (c : Command) : OperandsKept s ((s.issue k).start c) := by
  constructor <;> rfl

theorem pixelStep_operandsKept (s : State) (c : Command) : OperandsKept s (s.pixelStep c) := by
  constructor <;> simp

theorem pixelSteps_operandsKept (k : Nat) (s : State) (c : Command) :
    OperandsKept s (State.pixelSteps c k s) := by
  constructor <;> simp

theorem finish_operandsKept (s : State) (c : Command) : OperandsKept s (s.finish c) := by
  constructor <;> simp

/-- An issue reads the operand registers and leaves them (R24, R38). -/
theorem begin_operandsKept (s : State) (c : Command) : OperandsKept s (s.begin c) := by
  rcases begin_cases s c with ⟨e, -, h⟩ | ⟨-, ⟨-, h⟩ | ⟨t, -, h⟩ | ⟨src, -, h⟩ | ⟨src, dst, -, h⟩⟩ <;> rw [h]
  · exact refuse_operandsKept s _ e
  · constructor <;> rfl
  · constructor <;> rfl
  · exact start_operandsKept s _ _
  · exact start_operandsKept s _ _

/-- A whole command reads the operand registers and leaves them (R38). -/
theorem perform_operandsKept (s : State) (c : Command) (hidle : s.status.busy = false) :
    OperandsKept s (s.perform c) := by
  rcases perform_cases s c hidle with ⟨e, h⟩ | ⟨-, h⟩ | ⟨t, -, h⟩ | ⟨-, h⟩ <;> rw [h]
  · exact refuse_operandsKept s _ e
  · constructor <;> rfl
  · constructor <;> rfl
  · exact (start_operandsKept s _ c).trans ((pixelSteps_operandsKept _ _ c).trans (finish_operandsKept _ c))

theorem engineStep_operandsKept (s : State) : OperandsKept s s.engineStep := by
  rcases engineStep_cases s with ⟨-, h⟩ | ⟨-, -, h⟩ | ⟨c, -, -, h⟩ <;> rw [h]
  · exact .rfl
  · exact .rfl
  · rcases advance_cases s c with ⟨-, -, h⟩ | ⟨-, -, h⟩ | ⟨-, h⟩ <;> rw [h]
    · exact pixelStep_operandsKept s c
    · exact (pixelStep_operandsKept s c).trans (finish_operandsKept _ c)
    · exact finish_operandsKept s c

/-- The operand registers are the host's: only its write to one, and a reset, can change them (R21, R23, R38). -/
theorem takes_operands (s t : State) (e : Event) (h : Takes s e t) :
    OperandsKept s t ∨ (e = .reset ∧ t = s.applyReset) ∨
    ∃ size offset v, e = .regWrite size offset v ∧ offset ≠ 0 ∧ t = s.writeReg offset v := by
  cases h with
  | registerWrite hcmd => exact .inr (.inr ⟨_, _, _, rfl, hcmd, rfl⟩)
  | commandIgnored => exact .inl .rfl
  | commandPerformed hidle => exact .inl (perform_operandsKept s _ hidle)
  | commandRefused => exact .inl (refuse_operandsKept s _ _)
  | issueIgnored => exact .inl .rfl
  | issueBegun => exact .inl (begin_operandsKept s _)
  | issueRefused => exact .inl (refuse_operandsKept s _ _)
  | registerRead => exact .inl (by constructor <;> rfl)
  | memoryWrite =>
    obtain ⟨m, n, d, hd⟩ := disturb_eq { s with mem := memWriteBytes s.mem _ _ } _ _
    exact .inl (by rw [hd]; constructor <;> rfl)
  | memoryRead => exact .inl (by constructor <;> rfl)
  | engineMove => exact .inl (engineStep_operandsKept s)
  | waitMove => exact .inl ((engineStep_operandsKept s).trans (by constructor <;> rfl))
  | waitOver => exact .inl (by constructor <;> rfl)
  | reset => exact .inr (.inl ⟨rfl, rfl⟩)

theorem writeReg_cfg (s : State) (offset : Nat) (v : Word) : (s.writeReg offset v).cfg = s.cfg := by
  rcases writeReg_cases s offset v with h | ⟨-, h | h | h | h | h | h⟩ <;> rw [h]

/-- Settles O15: `takes_operands`; the two inputs it excepts are those the statement excepts, and they too leave the
configuration. -/
theorem operandRegistersAreTheHosts : Obligations.OperandRegistersAreTheHosts := by
  intro s t hstep
  rcases step_cases s t hstep with ⟨-, rfl⟩ | ⟨e, rest, hinbox, htakes⟩
  · exact ⟨(engineStep_operandsKept s).cfg, fun _ => (engineStep_operandsKept s).registers⟩
  · have hinboxKept : OperandsKept s { s with inbox := rest } := by constructor <;> rfl
    rcases takes_operands _ t e htakes with h | ⟨he, rfl⟩ | ⟨size, offset, v, he, hcmd, rfl⟩
    · exact ⟨h.cfg, fun _ => (hinboxKept.trans h).registers⟩
    · exact ⟨applyReset_cfg _, fun hhead => absurd he (hhead e rest hinbox).1⟩
    · exact ⟨writeReg_cfg _ _ _, fun hhead => absurd ((hhead e rest hinbox).2 size offset v he) hcmd⟩

/-! ### Reset -/

/-- STATUS reads 0 after reset (R40). -/
theorem statusWord_reset : Status.reset.word = 0 := by decide

/-- Settles O49: the reset state's fields are literals; the reset input leaves `State.resetRegisters`. -/
theorem resetClearsRegisters : Obligations.ResetClearsRegisters := by
  refine ⟨⟨rfl, rfl, rfl, rfl, rfl, rfl, rfl, rfl, rfl, rfl, rfl⟩, fun s => ?_⟩
  obtain ⟨m, n, hreset, hmem⟩ := applyReset_eq s
  refine ⟨s.applyReset, by rw [step_given]; rfl, ?_⟩
  rw [hreset]
  exact ⟨rfl, statusWord_reset, rfl, rfl, rfl, rfl, rfl, rfl, rfl, rfl, hmem⟩

end Sys2Proof.Machine
end

section
/-! PROOFS. Family 10_state.md, the writers: every byte and every accumulator entry that a pixel of a checked command
writes is in its range (R36, R39, R67). -/

namespace Sys2Proof.Machine

/-! ### Memories inside `MEM_SIZE` -/

/-- A memory in canonical form whose listed bytes all exist (R39, log 3). -/
structure MemFits (memSize : Nat) (m : List Host.Cell) : Prop where
  wf : memWf m = true
  below : ∀ e ∈ m, e.1 < memSize

theorem memFits_write {memSize : Nat} {m : List Host.Cell} (a : Nat) (v : Byte) (h : MemFits memSize m)
    (ha : a < memSize) : MemFits memSize (memWrite m a v) := by
  refine ⟨memWf_write m a v h.wf, fun e he => ?_⟩
  rcases sparseWrite_mem m a v e he with rfl | he
  · exact ha
  · exact h.below e he

theorem memFits_fill {memSize : Nat} {m : List Host.Cell} (base len : Nat) (f : Nat → Byte) (h : MemFits memSize m)
    (hin : inside memSize base len = true) : MemFits memSize (memFill m base f len) := by
  rw [inside_iff] at hin
  induction len with
  | zero => exact h
  | succ len ih => exact memFits_write _ _ (ih (by omega)) (by omega)

theorem memFits_writeBytes {memSize : Nat} (bytes : List Byte) {m : List Host.Cell} (a : Nat) (h : MemFits memSize m)
    (hin : inside memSize a bytes.length = true) : MemFits memSize (memWriteBytes m a bytes) := by
  rw [inside_iff] at hin
  induction bytes generalizing m a with
  | nil => exact h
  | cons b bs ih =>
    rw [List.length_cons] at hin
    exact ih (a + 1) (memFits_write a b h (by omega)) (by omega)

theorem memFits_storePixel {memSize : Nat} {m : List Host.Cell} (a : Nat) (x : Pixel) (h : MemFits memSize m)
    (ha : a + 3 ≤ memSize) : MemFits memSize (storePixel m a x) :=
  memFits_write _ _ (memFits_write _ _ (memFits_write _ _ h (by omega)) (by omega)) (by omega)

theorem accLegal_iff (acc : List (Nat × BitVec 12)) :
    accLegal acc = true ↔ sparseWf acc = true ∧ ∀ e ∈ acc, e.1 < 32768 := by
  simp [accLegal]

theorem accLegal_write (acc : List (Nat × BitVec 12)) (i : Nat) (v : BitVec 12) (h : accLegal acc = true)
    (hi : i < 32768) : accLegal (sparseWrite acc i v) = true := by
  obtain ⟨hwf, hbelow⟩ := (accLegal_iff acc).mp h
  refine (accLegal_iff _).mpr ⟨sparseWf_write acc i v hwf, fun e he => ?_⟩
  rcases sparseWrite_mem acc i v e he with rfl | he
  · exact hi
  · exact hbelow e he

/-! ### The accumulator entry of a pixel -/

/-- The accumulator file has an entry for every column of blocks of a 16-bit width (R36). -/
theorem entry_lt (c : Subsampling) (w h n : Nat) (hw : w < 65536) (hn : n < w * h) :
    (groupStep c w n).entry < 32768 := by
  have hcolumn : n % w < w := Nat.mod_lt n (Nat.pos_of_mul_pos_right (Nat.zero_lt_of_lt hn))
  cases c <;> simp only [groupStep] <;> omega

/-! ### One pixel of a writer -/

/-- What the writer changes is in range: the memory, and both accumulator arrays (R36, R39). -/
structure WriterFits (memSize : Nat) (t : WriterState) : Prop where
  mem : MemFits memSize t.mem
  accU : accLegal t.accU = true
  accV : accLegal t.accV = true

section
variable {memSize : Nat} (dst : YuvTag) (p d : Nat) (x : Yuv) {t : WriterState}
  (hd : p % yuvDivisor dst = 0) (hin : d + yuvBytes dst p ≤ memSize) (ht : WriterFits memSize t)
include hd hin ht

theorem memFits_writeGroup (g : Nat) (u v : Byte) (hg : g < groupCount dst p) :
    MemFits memSize (memWrite (memWrite t.mem (d + chromaUOffset dst p g) u) (d + chromaVOffset dst p g) v) := by
  have hu := chromaUOffset_lt dst p g hd hg
  have hv := chromaVOffset_lt dst p g hd hg
  exact memFits_write _ _ (memFits_write _ _ ht.mem (by omega)) (by omega)

theorem writeChroma_fits (g : GroupStep) (hentry : g.entry < 32768) (hgroup : g.group < groupCount dst p) :
    WriterFits memSize (writeChroma dst p d g x t) := by
  obtain ⟨hu, hv, hkept, hstored⟩ := writeChroma_eq dst p d g x t
  refine ⟨?mem, by rw [hu]; exact accLegal_write _ _ _ ht.accU hentry,
    by rw [hv]; exact accLegal_write _ _ _ ht.accV hentry⟩
  cases hlast : g.last with
  | false =>
    rw [hkept hlast]
    exact ht.mem
  | true =>
    rw [hstored hlast]
    exact memFits_writeGroup dst p d hd hin ht _ _ _ hgroup

/-- A pixel's luma byte stands in the destination (R190). -/
theorem writeLuma_fits (n : Nat) (hn : n < p) :
    WriterFits memSize { t with mem := memWrite t.mem (d + lumaOffset dst n) x.y } := by
  have hluma := lumaOffset_lt dst p n hn hd
  exact ⟨memFits_write _ _ ht.mem (by omega), ht.accU, ht.accV⟩

end

/-- One pixel of an image that passed the checks of CONVERT keeps everything in range. -/
theorem writePixel_fits {memSize : Nat} (dst : YuvTag) (w h d n : Nat) (x : Yuv) {t : WriterState}
    (hw : w < 65536) (hn : n < w * h) (hd : w * h % yuvDivisor dst = 0) (hfit : DimsFit dst w h)
    (hin : d + yuvBytes dst (w * h) ≤ memSize) (ht : WriterFits memSize t) :
    WriterFits memSize (writePixel dst w (w * h) d n x t) := by
  have hluma := writeLuma_fits dst (w * h) d x hd hin ht n hn
  by_cases hs : subsampling dst = .s444
  · rw [writePixel_full dst w _ d n x t hs]
    have hgroup : n < groupCount dst (w * h) := by simpa [groupCount, hs] using hn
    exact ⟨memFits_writeGroup dst (w * h) d hd hin hluma n x.u x.v hgroup, ht.accU, ht.accV⟩
  · rw [writePixel_subsampled dst w _ d n x t hs]
    exact writeChroma_fits dst (w * h) d x hd hin hluma _ (entry_lt _ w h n hw hn)
      (group_lt dst w h n hfit hd hn)

end Sys2Proof.Machine
end

section
/-! PROOFS. Family 10_state.md, the invariant: every operation of the machine keeps legal states legal, and so does
every step (R23, R24, R26, R27, R33, R36, R39, R67). -/

namespace Sys2Proof.Machine

/-! ### STATUS -/

theorem doneOnly_legal : Status.doneOnly.legal = true := by decide

theorem errOnly_legal (e : ErrorCode) : (Status.errOnly e.number).legal = true := by cases e <;> decide

/-- BUSY stands alone in a legal STATUS (R26). -/
theorem legal_busy (t : Status) (h : t.legal = true) (hbusy : t.busy = true) :
    t = { busy := true, done := false, err := false, errCode := 0 } := by
  obtain ⟨busy, done, err, errCode⟩ := t
  cases hbusy
  cases done <;> cases err <;> simp_all [Status.legal]

/-! ### The running command -/

/-- A BUSY engine's command as the invariant has it: latched, checked, its buffers lent, its pixel in range
(R24, R32, R33). -/
structure Runs (s : State) (c : Command) : Prop where
  running : s.running = some c
  perPixel : c.PerPixel
  checked : issueCheck c s.cfg s.latched = none
  lent : s.lent.head? = some (lendingOf c s.latched)
  area : s.latched.p.toNat = s.latched.w.toNat * s.latched.h.toNat
  inRange : s.pixel.toNat ≤ s.latched.p.toNat

theorem runningLegal_of_running (s : State) (c : Command) (hrunning : s.running = some c) :
    s.runningLegal = true ↔
      c.PerPixel ∧ issueCheck c s.cfg s.latched = none ∧ s.lent.head? = some (lendingOf c s.latched) := by
  cases c <;> simp [State.runningLegal, hrunning, Command.PerPixel]

/-- The last clause of the invariant, read as `Runs`. -/
theorem runs_iff (s : State) :
    (∃ c, Runs s c) ↔ s.runningLegal = true ∧
      s.latched.p.toNat = s.latched.w.toNat * s.latched.h.toNat ∧ s.pixel.toNat ≤ s.latched.p.toNat := by
  constructor
  · rintro ⟨c, hrunning, hc, hchecked, hlent, harea, hrange⟩
    exact ⟨(runningLegal_of_running s c hrunning).mpr ⟨hc, hchecked, hlent⟩, harea, hrange⟩
  · rintro ⟨hlegal, harea, hrange⟩
    cases hrunning : s.running with
    | none => simp [State.runningLegal, hrunning] at hlegal
    | some c =>
      obtain ⟨hc, hchecked, hlent⟩ := (runningLegal_of_running s c hrunning).mp hlegal
      exact ⟨c, hrunning, hc, hchecked, hlent, harea, hrange⟩

theorem legal_runs {s : State} (h : s.Legal) (hbusy : s.status.busy = true) : ∃ c, Runs s c :=
  (runs_iff s).mpr (h.running hbusy)

theorem legal_memFits {s : State} (h : s.Legal) : MemFits s.cfg.memSize s.mem := ⟨h.memWf, h.memInside⟩

/-- What a CONVERT that passed its checks knows of its latched operands (R263). -/
theorem convert_checked {src : RgbTag} {dst : YuvTag} {cfg : Config} {l : Latched}
    (h : issueCheck (.convert src dst) cfg l = none) :
    l.p.toNat % yuvDivisor dst = 0 ∧ DimsFit dst l.w.toNat l.h.toNat ∧
      rangeCheck cfg.memSize (sourceRange (.convert src dst) l) (writeRange (.convert src dst) l) = none := by
  simp only [issueCheck] at h
  split_ifs at h with hpair hdims hsize
  rw [Bool.or_eq_true, not_or] at hdims
  exact ⟨by simpa using hdims.1, (blocksFit_iff _ _ _).mp (by simpa using hdims.2), h⟩

/-- The write set of a checked command lies in the memory (R67, R267). -/
theorem writeRange_inside {c : Command} {cfg : Config} {l : Latched} (hc : c.PerPixel)
    (h : issueCheck c cfg l = none) :
    inside cfg.memSize (writeRange c l).1 (writeRange c l).2 = true := by
  have ofRanges (src : Nat × Nat) (hr : rangeCheck cfg.memSize src (writeRange c l) = none) :
      inside cfg.memSize (writeRange c l).1 (writeRange c l).2 = true :=
    (inside_iff _ _ _).mpr ((rangeCheck_none_iff _ _ _).mp hr).2.1
  rcases hc with ⟨src, rfl⟩ | ⟨src, dst, rfl⟩
  · exact ofRanges _ h
  · exact ofRanges _ (convert_checked h).2.2

/-! ### Building a legal state -/

/-- The invariant of a state with the operand registers of a legal one. -/
theorem legal_of_operandsKept {s t : State} (h : s.Legal) (hkept : OperandsKept s t)
    (hstatus : t.status.legal = true) (hmem : MemFits s.cfg.memSize t.mem) (haccU : accLegal t.accU = true)
    (haccV : accLegal t.accV = true) (hlent : ∀ b ∈ t.lent, inside s.cfg.memSize b.dstBase b.dstLen = true)
    (hruns : t.status.busy = true → ∃ c, Runs t c) : t.Legal where
  cfg := by rw [hkept.cfg]; exact h.cfg
  dimensions := by rw [hkept.cfg, hkept.width, hkept.height]; exact h.dimensions
  addresses := by rw [hkept.cfg, hkept.srcAddr, hkept.canAddr, hkept.dstAddr]; exact h.addresses
  status := hstatus
  memWf := hmem.wf
  memInside := by rw [hkept.cfg]; exact hmem.below
  accU := haccU
  accV := haccV
  lentInside := by rw [hkept.cfg]; exact hlent
  running := fun hbusy => (runs_iff t).mp (hruns hbusy)

/-- The invariant says nothing of the inputs waiting, the replies logged and the draws counted. -/
theorem legal_host {s : State} (h : s.Legal) (inbox : List Event) (replies : List Reply) (draws : Nat) :
    State.Legal { s with inbox := inbox, replies := replies, draws := draws } := by
  obtain ⟨hcfg, hdims, haddr, hstatus, hwf, hbelow, haccU, haccV, hlent, hrunning⟩ := h
  exact ⟨hcfg, hdims, haddr, hstatus, hwf, hbelow, haccU, haccV, hlent, hrunning⟩

/-- Another memory inside `MEM_SIZE`, with the model's own notes on it. -/
theorem legal_mem {s : State} (h : s.Legal) {m : List Host.Cell} (hm : MemFits s.cfg.memSize m) (n : Nat) (d : Bool) :
    State.Legal { s with mem := m, draws := n, disturbed := d } := by
  obtain ⟨hcfg, hdims, haddr, hstatus, -, -, haccU, haccV, hlent, hrunning⟩ := h
  exact ⟨hcfg, hdims, haddr, hstatus, hm.wf, hm.below, haccU, haccV, hlent, hrunning⟩

/-- Other operands, each within its register's width (R23); DST_LEN is any word. -/
theorem legal_operands {s : State} (h : s.Legal) {w ht : BitVec 16} {src can dst : Word}
    (hw : w.toNat < 2 ^ s.cfg.dimBits.val) (hh : ht.toNat < 2 ^ s.cfg.dimBits.val)
    (hsrc : src.toNat < 2 ^ s.cfg.aw.val) (hcan : can.toNat < 2 ^ s.cfg.aw.val)
    (hdst : dst.toNat < 2 ^ s.cfg.aw.val) (len : Word) :
    State.Legal { s with width := w, height := ht, srcAddr := src, canAddr := can, dstAddr := dst, dstLen := len } := by
  obtain ⟨hcfg, -, -, hstatus, hwf, hbelow, haccU, haccV, hlent, hrunning⟩ := h
  exact ⟨hcfg, ⟨hw, hh⟩, ⟨hsrc, hcan, hdst⟩, hstatus, hwf, hbelow, haccU, haccV, hlent, hrunning⟩

/-! ### Host accesses -/

theorem keepBits_lt (k : Nat) (v : Word) : (keepBits k v).toNat < 2 ^ k := by
  rw [keepBits_toNat]
  exact Nat.mod_lt _ (Nat.two_pow_pos k)

/-- A dimension register keeps no bit from `DIM_BITS` up (R23). -/
theorem keepBits_setWidth_lt (k n : Nat) (v : Word) : ((keepBits k v).setWidth n).toNat < 2 ^ k := by
  rw [BitVec.toNat_setWidth]
  exact Nat.lt_of_le_of_lt (Nat.mod_le _ _) (keepBits_lt k v)

/-- A host's register write keeps the hardwired bits 0 (R23). -/
theorem writeReg_legal {s : State} (h : s.Legal) (offset : Nat) (v : Word) : (s.writeReg offset v).Legal := by
  have haddr := keepBits_lt s.cfg.aw.val v
  have hdim := keepBits_setWidth_lt s.cfg.dimBits.val 16 v
  obtain ⟨hwidth, hheight⟩ := h.dimensions
  obtain ⟨hsrc, hcan, hdst⟩ := h.addresses
  rcases writeReg_cases s offset v with hw | ⟨-, hw | hw | hw | hw | hw | hw⟩ <;> rw [hw]
  · exact h
  · exact legal_operands h hdim hheight hsrc hcan hdst _
  · exact legal_operands h hwidth hdim hsrc hcan hdst _
  · exact legal_operands h hwidth hheight haddr hcan hdst _
  · exact legal_operands h hwidth hheight hsrc haddr hdst _
  · exact legal_operands h hwidth hheight hsrc hcan haddr _
  · exact legal_operands h hwidth hheight hsrc hcan hdst _

/-- A read ends lending only while IDLE, so a running command's buffers stay lent (R298). -/
theorem readLogged_legal {s : State} (h : s.Legal) (offset : Nat) : (s.readLogged offset).Legal := by
  refine legal_of_operandsKept h (by constructor <;> rfl) h.status (legal_memFits h) h.accU h.accV ?lent ?runs
  case lent =>
    rw [State.readLogged_lent]
    split
    · simp
    · exact h.lentInside
  case runs =>
    intro hbusy
    obtain ⟨c, hrunning, hc, hchecked, hlent, harea, hrange⟩ := legal_runs h hbusy
    have hbusy : s.status.busy = true := hbusy
    exact ⟨c, hrunning, hc, hchecked, by simpa [hbusy] using hlent, harea, hrange⟩

/-- Disturbing completed commands writes in their write sets alone (R71). -/
theorem disturbFinished_memFits (a len : Nat) (bs : List Lending) (s : State)
    (hbs : ∀ b ∈ bs, inside s.cfg.memSize b.dstBase b.dstLen = true) (h : MemFits s.cfg.memSize s.mem) :
    MemFits s.cfg.memSize (s.disturbFinished a len bs).mem := by
  induction bs generalizing s with
  | nil => exact h
  | cons b bs ih =>
    have hrest (b' : Lending) (hb' : b' ∈ bs) := hbs b' (List.mem_cons_of_mem b hb')
    rw [State.disturbFinished]
    split
    · exact ih (s.scramble b.dstBase b.dstLen) hrest (memFits_fill _ _ _ h (hbs b List.mem_cons_self))
    · exact ih s hrest h

theorem disturb_memFits {s : State} (h : s.Legal) (a len : Nat) : MemFits s.cfg.memSize (s.disturb a len).mem := by
  have hmem := legal_memFits h
  have hall := h.lentInside
  unfold State.disturb
  split
  · split
    · exact hmem
    · rename_i b bs hlent
      rw [hlent] at hall
      have htail := disturbFinished_memFits a len bs s (fun b' hb' => hall b' (List.mem_cons_of_mem b hb')) hmem
      dsimp only
      split
      · exact htail
      · exact htail
  · exact disturbFinished_memFits a len s.lent s hall hmem

theorem disturb_legal {s : State} (h : s.Legal) (a len : Nat) : (s.disturb a len).Legal := by
  have hmem := disturb_memFits h a len
  obtain ⟨m, n, d, hd⟩ := disturb_eq s a len
  rw [hd] at hmem ⊢
  exact legal_mem h hmem n d

/-- A host write inside the memory stores inside it (R39, R75). -/
theorem memoryWrite_legal {s : State} (h : s.Legal) (a : Nat) (bytes : List Byte)
    (hin : inside s.cfg.memSize a bytes.length = true) :
    (State.disturb { s with mem := memWriteBytes s.mem a bytes } a bytes.length).Legal :=
  disturb_legal (legal_mem h (memFits_writeBytes bytes a (legal_memFits h) hin) s.draws s.disturbed) a bytes.length

/-! ### Commands -/

/-- A refusal sets ERR and a code of R261 and leaves the rest (R262). -/
theorem refuse_legal {s : State} (h : s.Legal) (k : Word) (e : ErrorCode) (hidle : s.status.busy = false) :
    (s.refuse k e).Legal := by
  refine legal_of_operandsKept h (refuse_operandsKept s k e) ?status (legal_memFits h) h.accU h.accV h.lentInside ?runs
  case status =>
    rw [State.refuse_status, issued_refused _ _ hidle]
    exact errOnly_legal e
  case runs => exact fun hbusy => absurd ((refuse_idle s k e hidle).symm.trans hbusy) Bool.false_ne_true

/-- A command complete at issue leaves DONE alone (R26). -/
theorem complete_legal {s : State} (h : s.Legal) (k : Word) (r : BitVec 34) :
    State.Legal { (s.issue k).complete with result := r } :=
  legal_of_operandsKept h (by constructor <;> rfl) doneOnly_legal (legal_memFits h) h.accU h.accV h.lentInside
    fun hbusy => absurd hbusy Bool.false_ne_true

/-- An accepted command runs from pixel 0, its write set newly lent (R32, R33, R300). -/
theorem start_legal {s : State} (h : s.Legal) (c : Command) (hc : c.PerPixel)
    (hnone : issueCheck c s.cfg (s.latchOf c.word) = none) : ((s.issue c.word).start c).Legal := by
  refine legal_of_operandsKept h (start_operandsKept s _ c) rfl (legal_memFits h) h.accU h.accV ?lent ?runs
  case lent =>
    intro b hb
    rcases List.mem_cons.mp hb with rfl | hb
    · exact writeRange_inside hc hnone
    · exact h.lentInside b hb
  case runs =>
    refine fun _ => ⟨c, ?_, hc, hnone, rfl, latchOf_p s c.word, Nat.zero_le _⟩
    simp [State.running, State.latchOf]

/-- An issue while IDLE refuses, completes or starts its command (R25). -/
theorem begin_legal {s : State} (h : s.Legal) (c : Command) (hidle : s.status.busy = false) : (s.begin c).Legal := by
  rcases begin_cases s c with
    ⟨e, -, hb⟩ | ⟨hnone, ⟨-, hb⟩ | ⟨t, -, hb⟩ | ⟨src, hc, hb⟩ | ⟨src, dst, hc, hb⟩⟩ <;> rw [hb]
  · exact refuse_legal h _ e hidle
  · exact complete_legal h _ s.result
  · exact complete_legal h _ _
  · exact start_legal h c (.inl ⟨src, hc⟩) hnone
  · exact start_legal h c (.inr ⟨src, dst, hc⟩) hnone

/-! ### Pixels -/

/-- A pixel of NORMALIZE stores three bytes of `[C, C + 3P)` and leaves the accumulators (R156). -/
theorem pixelStep_normalize_fits {s : State} (h : s.Legal) (src : RgbTag) (hr : Runs s (.normalize src))
    (hleft : s.pixel.toNat < s.latched.p.toNat) :
    WriterFits s.cfg.memSize
      { mem := (s.pixelStep (.normalize src)).mem, accU := (s.pixelStep (.normalize src)).accU,
        accV := (s.pixelStep (.normalize src)).accV } := by
  refine ⟨?mem, by simpa [State.pixelStep] using h.accU, by simpa [State.pixelStep] using h.accV⟩
  change MemFits s.cfg.memSize (s.normalizePixel src).mem
  rw [normalizePixel_mem]
  split
  case isTrue => exact legal_memFits h
  case isFalse hpacked =>
    have hrange : writeRange (.normalize src) s.latched = (s.latched.c.toNat, 3 * s.latched.p.toNat) := by
      cases src <;> first | rfl | exact absurd rfl hpacked
    have hin := writeRange_inside hr.perPixel hr.checked
    rw [hrange, inside_iff] at hin
    exact memFits_storePixel _ _ (legal_memFits h) (by omega)

/-- A pixel of CONVERT is the writer's (R246, R67). -/
theorem pixelStep_convert_fits {s : State} (h : s.Legal) (src : RgbTag) (dst : YuvTag)
    (hr : Runs s (.convert src dst)) (hleft : s.pixel.toNat < s.latched.p.toNat) :
    WriterFits s.cfg.memSize
      { mem := (s.pixelStep (.convert src dst)).mem, accU := (s.pixelStep (.convert src dst)).accU,
        accV := (s.pixelStep (.convert src dst)).accV } := by
  obtain ⟨hdivides, hfit, -⟩ := convert_checked hr.checked
  have hpos : 0 < yuvBytes dst s.latched.p.toNat :=
    Nat.zero_lt_of_lt (lumaOffset_lt dst s.latched.p.toNat _ hleft hdivides)
  have hin : s.latched.d.toNat + yuvBytes dst s.latched.p.toNat ≤ s.cfg.memSize := by
    rcases (inside_iff _ _ _).mp (writeRange_inside hr.perPixel hr.checked) with h0 | hin
    · exact absurd h0 hpos.ne'
    · exact hin
  have hfits : WriterFits s.cfg.memSize { mem := s.mem, accU := s.accU, accV := s.accV } :=
    ⟨legal_memFits h, h.accU, h.accV⟩
  rw [hr.area] at hleft hdivides hin
  have key := writePixel_fits dst _ _ s.latched.d.toNat _ (s.presentYuv src) s.latched.w.isLt hleft hdivides hfit hin
    hfits
  rw [← hr.area] at key
  exact key

/-- One pixel of a running command, while one is left. -/
theorem pixelStep_legal {s : State} (h : s.Legal) (c : Command) (hr : Runs s c)
    (hleft : s.pixel.toNat < s.latched.p.toNat) : (s.pixelStep c).Legal ∧ Runs (s.pixelStep c) c := by
  have hfits : WriterFits s.cfg.memSize
      { mem := (s.pixelStep c).mem, accU := (s.pixelStep c).accU, accV := (s.pixelStep c).accV } := by
    rcases hr.perPixel with ⟨src, rfl⟩ | ⟨src, dst, rfl⟩
    · exact pixelStep_normalize_fits h src hr hleft
    · exact pixelStep_convert_fits h src dst hr hleft
  have hruns : Runs (s.pixelStep c) c := by
    obtain ⟨hrunning, hc, hchecked, hlent, harea, -⟩ := hr
    refine ⟨by simpa using hrunning, hc, by simpa using hchecked, by simpa using hlent, by simpa using harea, ?_⟩
    rw [pixelStep_pixel_toNat s c hleft, State.pixelStep_latched]
    exact hleft
  refine ⟨legal_of_operandsKept h (pixelStep_operandsKept s c) ?status hfits.mem hfits.accU hfits.accV ?lent
    fun _ => ⟨c, hruns⟩, hruns⟩
  case status => simpa using h.status
  case lent => simpa using h.lentInside

/-- A run of pixels of a running command, while they are left. -/
theorem pixelSteps_legal (k : Nat) {s : State} (h : s.Legal) (c : Command) (hr : Runs s c)
    (hk : s.pixel.toNat + k ≤ s.latched.p.toNat) :
    (State.pixelSteps c k s).Legal ∧ Runs (State.pixelSteps c k s) c := by
  induction k generalizing s with
  | zero => exact ⟨h, hr⟩
  | succ k ih =>
    have hleft : s.pixel.toNat < s.latched.p.toNat := by omega
    obtain ⟨hlegal, hruns⟩ := pixelStep_legal h c hr hleft
    refine ih hlegal hruns ?_
    rw [pixelStep_pixel_toNat s c hleft, State.pixelStep_latched]
    omega

/-- Completion leaves DONE alone and, where the host disturbed the command, free bytes in its write set (R26, R71). -/
theorem finish_legal {s : State} (h : s.Legal) (c : Command) (hr : Runs s c) (hbusy : s.status.busy = true) :
    (s.finish c).Legal := by
  refine legal_of_operandsKept h (finish_operandsKept s c) ?status ?mem (by simpa using h.accU)
    (by simpa using h.accV) (by simpa using h.lentInside) ?runs
  case status =>
    rw [State.finish_status, legal_busy s.status h.status hbusy]
    exact doneOnly_legal
  case mem =>
    cases hd : s.disturbed with
    | false =>
      rw [finish_mem s c hd]
      exact legal_memFits h
    | true =>
      have hmem : (s.finish c).mem = (s.scramble (writeRange c s.latched).1 (writeRange c s.latched).2).mem := by
        simp [State.finish, hd]
      rw [hmem]
      exact memFits_fill _ _ _ (legal_memFits h) (writeRange_inside hr.perPixel hr.checked)
  case runs => exact fun hb => absurd ((finish_idle s c).symm.trans hb) Bool.false_ne_true

/-- The rest of a running command, to its completion (R248). -/
theorem runToEnd_legal {s : State} (h : s.Legal) (c : Command) (hr : Runs s c) (hbusy : s.status.busy = true) :
    (s.runToEnd c).Legal := by
  have hrange := hr.inRange
  obtain ⟨hlegal, hruns⟩ := pixelSteps_legal (s.latched.p.toNat - s.pixel.toNat) h c hr (by omega)
  exact finish_legal hlegal c hruns (by simpa using hbusy)

/-- A whole command is its issue and, if that left the engine BUSY, the run to the end. -/
theorem perform_legal {s : State} (h : s.Legal) (c : Command) (hidle : s.status.busy = false) :
    (s.perform c).Legal := by
  have hbegin := begin_legal h c hidle
  rw [State.perform, if_neg (by simp [hidle])]
  dsimp only
  split
  case isTrue hbusy =>
    obtain ⟨hc, hnone⟩ := begin_busy s c hidle hbusy
    obtain ⟨c', hr⟩ := legal_runs hbegin hbusy
    have hrunning : (s.begin c).running = some c := by
      simp [begin_accepted s c hc hnone, State.running, State.latchOf]
    cases hr.running.symm.trans hrunning
    exact runToEnd_legal hbegin c hr hbusy
  case isFalse => exact hbegin

/-- The engine's own move (R32, R33). -/
theorem engineStep_legal {s : State} (h : s.Legal) : s.engineStep.Legal := by
  rcases engineStep_cases s with ⟨-, hstep⟩ | ⟨-, -, hstep⟩ | ⟨c, hbusy, hrunning, hstep⟩ <;> rw [hstep]
  · exact h
  · exact h
  · obtain ⟨c', hr⟩ := legal_runs h hbusy
    cases hr.running.symm.trans hrunning
    rcases advance_cases s c with ⟨hleft, -, hadv⟩ | ⟨hleft, -, hadv⟩ | ⟨-, hadv⟩ <;> rw [hadv]
    · exact (pixelStep_legal h c hr hleft).1
    · obtain ⟨hlegal, hruns⟩ := pixelStep_legal h c hr hleft
      exact finish_legal hlegal c hruns (by simpa using hbusy)
    · exact finish_legal h c hr hbusy

/-! ### Reset -/

/-- The reset values of the registers are legal with any parameters and any memory inside them (R40). -/
theorem resetRegisters_legal (s : State) (hcfg : s.cfg.wf) (hmem : MemFits s.cfg.memSize s.mem) :
    s.resetRegisters.Legal where
  cfg := hcfg
  dimensions := ⟨Nat.two_pow_pos _, Nat.two_pow_pos _⟩
  addresses := ⟨Nat.two_pow_pos _, Nat.two_pow_pos _, Nat.two_pow_pos _⟩
  status := rfl
  memWf := hmem.wf
  memInside := hmem.below
  accU := rfl
  accV := rfl
  lentInside := fun _ hb => absurd hb List.not_mem_nil
  running := fun hbusy => absurd hbusy Bool.false_ne_true

/-- Settles O52: the reset state's registers are reset, its memory lists nothing, and 0x10000 bytes have addresses. -/
theorem resetStateIsLegal : Obligations.ResetStateIsLegal :=
  resetRegisters_legal State.reset ((thisHardware_wf_iff 0x10000).mpr (by decide))
    ⟨rfl, fun _ he => absurd he List.not_mem_nil⟩

/-- A reset in mid-command writes in the abandoned command's write set alone (R291). -/
theorem applyReset_legal {s : State} (h : s.Legal) : s.applyReset.Legal := by
  unfold State.applyReset
  split
  case isTrue hbusy =>
    obtain ⟨c, hr⟩ := legal_runs h hbusy
    rw [hr.running]
    exact resetRegisters_legal _ h.cfg
      (memFits_fill _ _ _ (legal_memFits h) (writeRange_inside hr.perPixel hr.checked))
  case isFalse => exact resetRegisters_legal s h.cfg (legal_memFits h)

/-! ### The step -/

/-- Every way of taking an input keeps a legal state legal. -/
theorem takes_legal {s t : State} {e : Event} (h : s.Legal) (htakes : Takes s e t) : t.Legal := by
  cases htakes with
  | registerWrite => exact writeReg_legal h _ _
  | commandIgnored => exact h
  | commandPerformed hidle => exact perform_legal h _ hidle
  | commandRefused hidle => exact refuse_legal h _ _ hidle
  | issueIgnored => exact h
  | issueBegun hidle => exact begin_legal h _ hidle
  | issueRefused hidle => exact refuse_legal h _ _ hidle
  | registerRead => exact readLogged_legal h _
  | memoryWrite hin => exact memoryWrite_legal h _ _ hin
  | memoryRead => exact legal_host h s.inbox _ _
  | engineMove => exact engineStep_legal h
  | waitMove => exact legal_host (engineStep_legal h) _ s.engineStep.replies s.engineStep.draws
  | waitOver => exact readLogged_legal h 4
  | reset => exact applyReset_legal h

/-- Settles O51: a step is the engine's own move or takes the first input waiting. -/
theorem stepKeepsLegal : Obligations.StepKeepsLegal := by
  intro s t h hstep
  rcases step_cases s t hstep with ⟨-, rfl⟩ | ⟨e, rest, -, htakes⟩
  · exact engineStep_legal h
  · exact takes_legal (legal_host h rest s.replies s.draws) htakes

end Sys2Proof.Machine
end

section
/-! PROOFS. Family 20_memory.md, the write set: the bytes a whole command can change (R67, R68). -/

namespace Sys2Proof.Machine

/-! ### Memories that agree outside a range -/

theorem SameOutside.rfl {m : List Host.Cell} {base len : Nat} : SameOutside m m base len := fun _ _ => Eq.refl _

theorem SameOutside.trans {m m' m'' : List Host.Cell} {base len : Nat} (h : SameOutside m m' base len)
    (h' : SameOutside m' m'' base len) : SameOutside m m'' base len :=
  fun a ha => (h' a ha).trans (h a ha)

theorem storePixel_sameOutside (m : List Host.Cell) (a : Nat) (x : Pixel) {base len : Nat} (hbase : base ≤ a)
    (hend : a + 3 ≤ base + len) : SameOutside m (storePixel m a x) base len := by
  intro b hb
  rw [memRead_storePixel, if_neg (by omega), if_neg (by omega), if_neg (by omega)]

/-! ### NORMALIZE -/

theorem writeRange_normalize (src : RgbTag) (l : Latched) (hpacked : src ≠ .rgb888) :
    writeRange (.normalize src) l = (l.c.toNat, 3 * l.p.toNat) := by
  cases src with
  | rgb888 => exact absurd rfl hpacked
  | _ => rfl

/-- A pixel of NORMALIZE stores three bytes of `[C, C + 3P)`, for RGB888 none (R156). -/
theorem pixelStep_normalize_sameOutside (s : State) (src : RgbTag) (hleft : s.pixel.toNat < s.latched.p.toNat) :
    SameOutside s.mem (s.pixelStep (.normalize src)).mem (writeRange (.normalize src) s.latched).1
      (writeRange (.normalize src) s.latched).2 := by
  have hmem : (s.pixelStep (.normalize src)).mem = (s.normalizePixel src).mem := by rfl
  rw [hmem, normalizePixel_mem]
  split
  case isTrue => exact .rfl
  case isFalse hpacked =>
    rw [writeRange_normalize src s.latched hpacked]
    exact storePixel_sameOutside _ _ _ (by omega) (by omega)

theorem pixelSteps_normalize_sameOutside (k : Nat) (s : State) (src : RgbTag)
    (hk : s.pixel.toNat + k ≤ s.latched.p.toNat) :
    SameOutside s.mem (State.pixelSteps (.normalize src) k s).mem (writeRange (.normalize src) s.latched).1
      (writeRange (.normalize src) s.latched).2 := by
  induction k generalizing s with
  | zero => exact .rfl
  | succ k ih =>
    have hleft : s.pixel.toNat < s.latched.p.toNat := by omega
    have hrest := ih (s.pixelStep (.normalize src)) (by
      rw [pixelStep_pixel_toNat s _ hleft, State.pixelStep_latched]
      omega)
    rw [State.pixelStep_latched] at hrest
    exact (pixelStep_normalize_sameOutside s src hleft).trans hrest

/-! ### Whole commands -/

/-- The write set of a CONVERT issued now, in the host's registers (R24, R67). -/
theorem writeRange_convert (s : State) (src : RgbTag) (dst : YuvTag) (k : Word) :
    writeRange (.convert src dst) (s.latchOf k) = (s.dstAddr.toNat, yuvBytes dst s.pixels) := by
  rw [writeRange, latchOf_p]
  rfl

/-- A refused CONVERT changes no byte; an accepted one is a run of the writer (R246, R262). -/
theorem perform_convert_sameOutside (s : State) (src : RgbTag) (dst : YuvTag) (hidle : s.status.busy = false) :
    SameOutside s.mem (s.perform (.convert src dst)).mem s.dstAddr.toNat (yuvBytes dst s.pixels) := by
  cases hcheck : issueCheck (.convert src dst) s.cfg (s.latchOf (Command.convert src dst).word) with
  | some e =>
    rw [perform_refused s _ e hidle hcheck]
    exact .rfl
  | none =>
    have hready := (issueCheck_convert_none s src dst _ hidle).mp hcheck
    obtain ⟨-, -, hmem, -, -⟩ := perform_convert s src dst hready
    rw [hmem]
    exact writerRun_sameOutside dst _ _ _ _ _ _ hready.dims hready.divides le_rfl

/-- A whole command changes no byte outside its write set (R67, R68). -/
theorem perform_sameOutside (s : State) (c : Command) (hidle : s.status.busy = false) :
    SameOutside s.mem (s.perform c).mem (writeRange c (s.latchOf c.word)).1
      (writeRange c (s.latchOf c.word)).2 := by
  rcases perform_cases s c hidle with ⟨e, hp⟩ | ⟨-, hp⟩ | ⟨t, -, hp⟩ | ⟨hc, hp⟩
  · rw [hp]
    exact .rfl
  · rw [hp]
    exact .rfl
  · rw [hp]
    exact .rfl
  · rcases hc with ⟨src, rfl⟩ | ⟨src, dst, rfl⟩
    · rw [hp, finish_mem _ _ (by simp)]
      exact pixelSteps_normalize_sameOutside s.pixels ((s.issue _).start _) src (by simp)
    · rw [writeRange_convert]
      exact perform_convert_sameOutside s src dst hidle

/-- Settles O42: a BUSY engine ignores the command; from IDLE `perform_sameOutside`, the write set read off the
registers. That a refused command changes no byte is a clause of O16. -/
theorem bytesOutsideTheWriteSetUnchanged : Obligations.BytesOutsideTheWriteSetUnchanged := by
  intro i s t hexec
  refine ⟨fun a ha => ?frame, fun hidle herr => ?refused⟩
  case refused =>
    obtain ⟨-, -, hrefused⟩ := resultRegistersWrittenOnlyByTheirCommand i s t hidle hexec
    obtain ⟨-, -, hmem, -, -⟩ := hrefused herr
    exact hmem
  case frame =>
    rw [exec_eq] at hexec
    cases hexec
    cases hb : s.status.busy with
    | true => rw [perform_busy s _ hb]
    | false =>
      refine perform_sameOutside s i.command hb a ?_
      cases hc : i.command with
      | nop => simp [writeRange]
      | reqbytes g => simp [writeRange]
      | normalize src =>
        rw [hc] at ha
        by_cases hsrc : src = .rgb888
        · subst hsrc
          simp [writeRange]
        · rw [writeRange_normalize src _ hsrc, latchOf_p]
          exact ha hsrc
      | convert src dst =>
        rw [hc] at ha
        rw [writeRange_convert]
        exact ha

end Sys2Proof.Machine
end

section
/-! PROOFS. Family 20_memory.md, the host's accesses to `MEM`: what a host that keeps the protocol reads and writes, and
how far a write that breaks it reaches (R63, R71, R75, R298). -/

namespace Sys2Proof.Machine

/-! ### Lent buffers that a write does not touch -/

theorem disturbFinished_untouched (bs : List Lending) (a len : Nat) (s : State)
    (h : ∀ b ∈ bs, b.touches a len = false) : s.disturbFinished a len bs = s := by
  induction bs generalizing s with
  | nil => rfl
  | cons b bs ih =>
    rw [State.disturbFinished, if_neg (by simp [h b List.mem_cons_self])]
    exact ih s fun b' hb' => h b' (List.mem_cons_of_mem b hb')

/-- A write that keeps the protocol disturbs nothing (R71, R298). -/
theorem disturb_of_mayWrite (s : State) (a len : Nat) (h : s.mayWrite a len) : s.disturb a len = s := by
  unfold State.disturb
  split
  · split
    · rfl
    · rename_i b bs hlent
      have huntouched (b' : Lending) (hb' : b' ∈ b :: bs) : b'.touches a len = false := h b' (hlent ▸ hb')
      dsimp only
      rw [if_neg (by simp [huntouched b List.mem_cons_self])]
      exact disturbFinished_untouched bs a len s fun b' hb' => huntouched b' (List.mem_cons_of_mem b hb')
  · exact disturbFinished_untouched s.lent a len s h

/-! ### Bytes outside every lent write set -/

/-- The byte at `x` belongs to no write set of `bs`. -/
def OutsideWriteSets (bs : List Lending) (x : Nat) : Prop :=
  ∀ b ∈ bs, ¬(b.dstBase ≤ x ∧ x < b.dstBase + b.dstLen)

theorem disturbFinished_memRead (bs : List Lending) (a len : Nat) (s : State) (x : Nat)
    (hx : OutsideWriteSets bs x) : memRead (s.disturbFinished a len bs).mem x = memRead s.mem x := by
  induction bs generalizing s with
  | nil => rfl
  | cons b bs ih =>
    have hrest : OutsideWriteSets bs x := fun b' hb' => hx b' (List.mem_cons_of_mem b hb')
    rw [State.disturbFinished]
    split
    · rw [ih _ hrest, State.scramble_mem, memRead_fill, if_neg (hx b List.mem_cons_self)]
    · exact ih s hrest

/-- A violation of the protocol gives free values to bytes of lent write sets alone (R71). -/
theorem disturb_memRead (s : State) (a len x : Nat) (hx : OutsideWriteSets s.lent x) :
    memRead (s.disturb a len).mem x = memRead s.mem x := by
  unfold State.disturb
  split
  · split
    · rfl
    · rename_i b bs hlent
      rw [hlent] at hx
      have htail := disturbFinished_memRead bs a len s x fun b' hb' => hx b' (List.mem_cons_of_mem b hb')
      dsimp only
      split
      · exact htail
      · exact htail
  · exact disturbFinished_memRead s.lent a len s x hx

/-- A write into the buffers of the running command, the newest lent, marks it (R71). -/
theorem disturb_marks_running (s : State) (a len : Nat) {b : Lending} {bs : List Lending}
    (hbusy : s.status.busy = true) (hlent : s.lent = b :: bs) (htouches : b.touches a len = true) :
    (s.disturb a len).disturbed = true := by
  simp [State.disturb, hbusy, hlent, htouches]

/-- Settles O48: a host write that leaves a next state stores its bytes and disturbs. -/
theorem disturbanceIsConfined : Obligations.DisturbanceIsConfined := by
  intro s t a bytes hstep
  rw [step_given] at hstep
  cases takes_of_serve _ s t hstep with
  | memoryWrite =>
    refine ⟨fun x hx => ?confined, fun hbusy b bs hlent htouches => ?marked⟩
    case confined =>
      exact (disturb_memRead { s with mem := memWriteBytes s.mem a bytes } a _ x hx).trans
        (memRead_writeBytes bytes s.mem a x)
    case marked => exact disturb_marks_running { s with mem := _ } a _ hbusy hlent htouches

/-! ### Reads -/

/-- A read that keeps the protocol meets no byte of a lent write set (R298). -/
theorem unsettled_of_mayRead (s : State) (a len j : Nat) (h : s.mayRead a len) (hj : j < len) :
    s.unsettled (a + j) = false := by
  rw [State.unsettled, List.any_eq_false]
  intro b hb
  rw [Bool.not_eq_true, overlap_false_iff]
  have hapart := (overlap_false_iff _ _ _ _).mp (h b hb)
  unfold Apart at hapart ⊢
  omega

/-- Where no byte is unsettled the host reads the bytes of the memory (R63). -/
theorem hostBytes_settled (s : State) (len k a : Nat) (h : ∀ j, j < len → s.unsettled (a + j) = false) :
    s.hostBytes k a len = memReadBytes s.mem a len := by
  induction len generalizing k a with
  | zero => rfl
  | succ len ih =>
    have hhead : s.unsettled a = false := h 0 (Nat.succ_pos len)
    have htail : s.hostBytes (k + 1) (a + 1) len = memReadBytes s.mem (a + 1) len := by
      refine ih (k + 1) (a + 1) fun j hj => ?_
      rw [Nat.add_right_comm]
      exact h (j + 1) (Nat.succ_lt_succ hj)
    rw [State.hostBytes, memReadBytes, htail, hhead]
    rfl

/-! ### The accesses -/

theorem hostWrite_inside (s : State) (a : Nat) (bytes : List Byte) (hin : s.Holds a bytes.length) :
    hostWrite a bytes s =
      .next (State.disturb { s with mem := memWriteBytes s.mem a bytes } a bytes.length) :=
  if_pos ((inside_iff _ _ _).mpr hin)

theorem hostRead_inside (s : State) (a len : Nat) (hin : s.Holds a len) :
    hostRead a len s =
      .next { s with replies := s.replies ++ [.bytes (s.hostBytes s.draws a len)], draws := s.draws + len } :=
  if_pos ((inside_iff _ _ _).mpr hin)

/-- Settles O47: a write that keeps the protocol disturbs nothing and a read meets no unsettled byte; outside the memory
both fault (log 11). -/
theorem hostMemoryAccess : Obligations.HostMemoryAccess := by
  intro s a
  refine ⟨fun bytes hin hmay => ?write, fun len hin hmay => ?read, fun bytes hout => ?writeOutside,
    fun len hout => ?readOutside⟩
  case write =>
    refine ⟨memWriteBytes s.mem a bytes, ?taken, fun j hj => ?stored, fun x hx => ?others⟩
    case taken =>
      rw [step_given, serve, hostWrite_inside s a bytes hin,
        disturb_of_mayWrite { s with mem := memWriteBytes s.mem a bytes } a _ hmay]
    case stored => rw [memRead_writeBytes, if_pos (by omega), Nat.add_sub_cancel_left]
    case others => rw [memRead_writeBytes, if_neg hx]
  case read =>
    refine ⟨memReadBytes s.mem a len, memReadBytes_length _ _ _, fun j hj => memReadBytes_getD _ _ _ _ hj, ?_⟩
    rw [step_given, serve, hostRead_inside s a len hin,
      hostBytes_settled s len s.draws a fun j hj => unsettled_of_mayRead s a len j hmay hj]
  case writeOutside =>
    rw [step_given]
    exact if_neg fun hin => hout ((inside_iff _ _ _).mp hin)
  case readOutside =>
    rw [step_given]
    exact if_neg fun hin => hout ((inside_iff _ _ _).mp hin)

end Sys2Proof.Machine
end

section
/-! PROOFS. Family 30_encoding.md: R92's steps on the fields of a word, the decoder against the encoder (R97), the
words as numbers (R90), and what a CMD write does with a word (R92, R262). -/

namespace Sys2Proof

/-! ### The fields of a word, and the word of six fields, as numbers (R90) -/

section WordNumbers
variable (k : Word)

@[simp] theorem ofWord_z3_toNat : (Fields.ofWord k).z3.toNat = k.toNat / 2 ^ 20 := by
  simp only [Fields.ofWord, BitVec.extractLsb'_toNat, Nat.shiftRight_eq_div_pow]
  omega

@[simp] theorem ofWord_op_toNat : (Fields.ofWord k).op.toNat = k.toNat / 2 ^ 16 % 16 := by
  simp [Fields.ofWord, Nat.shiftRight_eq_div_pow]

@[simp] theorem ofWord_z2_toNat : (Fields.ofWord k).z2.toNat = k.toNat / 2 ^ 13 % 8 := by
  simp [Fields.ofWord, Nat.shiftRight_eq_div_pow]

@[simp] theorem ofWord_fb_toNat : (Fields.ofWord k).fb.toNat = k.toNat / 2 ^ 8 % 32 := by
  simp [Fields.ofWord, Nat.shiftRight_eq_div_pow]

@[simp] theorem ofWord_z1_toNat : (Fields.ofWord k).z1.toNat = k.toNat / 2 ^ 5 % 8 := by
  simp [Fields.ofWord, Nat.shiftRight_eq_div_pow]

@[simp] theorem ofWord_fa_toNat : (Fields.ofWord k).fa.toNat = k.toNat % 32 := by
  simp [Fields.ofWord]

end WordNumbers

theorem toWord_toNat (f : Fields) :
    f.toWord.toNat = f.z3.toNat * 2 ^ 20 + f.op.toNat * 2 ^ 16 + f.z2.toNat * 2 ^ 13 + f.fb.toNat * 2 ^ 8 +
      f.z1.toNat * 2 ^ 5 + f.fa.toNat := by
  simp only [Fields.toWord, Machine.toNat_append_eq_add]
  omega

/-- The six fields are all of the word: no bit is left out. -/
theorem toWord_ofWord (k : Word) : (Fields.ofWord k).toWord = k := by
  apply BitVec.eq_of_toNat_eq
  rw [toWord_toNat, ofWord_z3_toNat, ofWord_op_toNat, ofWord_z2_toNat, ofWord_fb_toNat, ofWord_z1_toNat,
    ofWord_fa_toNat]
  omega

/-- `OP << 16 | FB << 8 | FA` (R90). -/
theorem command_word_toNat (c : Command) :
    c.word.toNat = c.op.toNat * 2 ^ 16 + c.fb.toNat * 2 ^ 8 + c.fa.toNat := by
  rw [Command.word, toWord_toNat]
  simp [Command.fields]

/-! ### The tags of a number (R93) -/

theorem rgbTag_number_of_ofNumber {v : BitVec 5} {t : RgbTag} (h : RgbTag.ofNumber v = some t) : t.number = v := by
  cases t <;> decide +revert

theorem yuvTag_number_of_ofNumber {v : BitVec 5} {t : YuvTag} (h : YuvTag.ofNumber v = some t) : t.number = v := by
  cases t <;> decide +revert

theorem tag_number_of_ofNumber {v : BitVec 5} {t : Tag} (h : Tag.ofNumber v = some t) : t.number = v := by
  unfold Tag.ofNumber at h
  split at h
  next t' hrgb => cases h; exact rgbTag_number_of_ofNumber hrgb
  next =>
    split at h
    next t' hyuv => cases h; exact yuvTag_number_of_ofNumber hyuv
    next => cases h

theorem rgbTag_ofNumber_eq_none_iff (v : BitVec 5) : RgbTag.ofNumber v = none ↔ ¬ v.toNat ≤ 4 := by
  decide +revert

theorem yuvTag_ofNumber_eq_none_iff (v : BitVec 5) : YuvTag.ofNumber v = none ↔ ¬ (16 ≤ v.toNat ∧ v.toNat ≤ 30) := by
  decide +revert

theorem tag_ofNumber_eq_none_iff (v : BitVec 5) :
    Tag.ofNumber v = none ↔ ¬ (v.toNat ≤ 4 ∨ 16 ≤ v.toNat ∧ v.toNat ≤ 30) := by
  decide +revert

/-! ### Steps 1 to 4 of R92, on the fields -/

/-- Steps 1 to 3 of R92: the reserved bits are 0, OP is an operation, and a field it does not use is 0. -/
def Fields.wordLegal (f : Fields) : Bool := f.reservedZero && f.opLegal && f.unusedZero

theorem fields_wellFormed (c : Command) : c.fields.wellFormed = true := by
  cases c with
  | nop => rfl
  | reqbytes t => rcases t with t | t <;> cases t <;> rfl
  | normalize src => cases src <;> rfl
  | convert src dst => cases src <;> cases dst <;> rfl

section Steps
variable (f : Fields)

theorem wellFormed_iff : f.wellFormed = true ↔ f.wordLegal = true ∧ f.tagsLegal = true := by
  rw [Fields.wellFormed, ← Fields.wordLegal, Bool.and_eq_true]

theorem wordLegal_iff :
    f.wordLegal = true ↔ f.z3.toNat = 0 ∧ f.z2.toNat = 0 ∧ f.z1.toNat = 0 ∧ f.op.toNat ≤ 3 ∧
      (f.op.toNat = 0 → f.fa.toNat = 0 ∧ f.fb.toNat = 0) ∧
      (f.op.toNat = 1 ∨ f.op.toNat = 2 → f.fb.toNat = 0) := by
  simp only [Fields.wordLegal, Fields.reservedZero, BitVec.ofNat_eq_ofNat, Fields.opLegal, Fields.unusedZero,
    Bool.and_eq_true, beq_iff_eq, BitVec.toNat_eq, BitVec.toNat_ofNat, Nat.reducePow, Nat.zero_mod, decide_eq_true_eq,
    Bool.or_eq_true, bne_iff_ne, ne_eq, Nat.one_mod, Nat.reduceMod]
  omega

theorem tagsLegal_iff :
    f.tagsLegal = true ↔
      (f.op.toNat = 1 → f.fa.toNat ≤ 4 ∨ 16 ≤ f.fa.toNat ∧ f.fa.toNat ≤ 30) ∧
      (f.op.toNat = 2 → f.fa.toNat ≤ 4) ∧
      (f.op.toNat = 3 → f.fa.toNat ≤ 4 ∧ 16 ≤ f.fb.toNat ∧ f.fb.toNat ≤ 30) := by
  simp only [Fields.tagsLegal, BitVec.ofNat_eq_ofNat, Bool.and_eq_true, Bool.or_eq_true, bne_iff_ne, ne_eq,
    BitVec.toNat_eq, BitVec.toNat_ofNat, Nat.reducePow, Nat.one_mod, decide_eq_true_eq, Nat.reduceMod]
  omega

/-- The decoder's own test of step 1. -/
theorem reservedZero_iff : f.reservedZero = true ↔ ¬ (f.z3 ≠ 0 ∨ f.z2 ≠ 0 ∨ f.z1 ≠ 0) := by
  simp [Fields.reservedZero, and_assoc]

/-- The decoder's own test of step 2. -/
theorem opLegal_iff : f.opLegal = true ↔ ¬ 3 < f.op := by
  simp [Fields.opLegal, BitVec.lt_def]

/-- The decoder's own two tests of step 3. -/
theorem unusedZero_iff :
    f.unusedZero = true ↔ ¬ (f.op = 0 ∧ (f.fa ≠ 0 ∨ f.fb ≠ 0)) ∧ ¬ ((f.op = 1 ∨ f.op = 2) ∧ f.fb ≠ 0) := by
  simp [Fields.unusedZero, imp_iff_not_or]

theorem decode_of_not_reservedZero (h : ¬ f.reservedZero = true) : f.decode = .error .reservedBitSet := by
  rw [reservedZero_iff, not_not] at h
  rw [Fields.decode, if_pos h]

theorem decode_of_not_opLegal (hz : f.reservedZero = true) (h : ¬ f.opLegal = true) :
    f.decode = .error .reservedOp := by
  rw [reservedZero_iff] at hz
  rw [opLegal_iff, not_not] at h
  rw [Fields.decode, if_neg hz, if_pos h]

theorem decode_of_not_unusedZero (hz : f.reservedZero = true) (hop : f.opLegal = true)
    (h : ¬ f.unusedZero = true) : f.decode = .error .unusedFieldSet := by
  rw [reservedZero_iff] at hz
  rw [opLegal_iff] at hop
  rw [unusedZero_iff, not_and_or, not_not, not_not] at h
  rw [Fields.decode, if_neg hz, if_neg hop]
  rcases h with hnop | hone
  · rw [if_pos hnop]
  · rw [if_pos hone, ite_self]

/-- A word that fails steps 1 to 3 raises E_OP, whichever of them it fails (R92). -/
theorem decode_of_not_wordLegal (h : ¬ f.wordLegal = true) :
    ∃ e, f.decode = .error e ∧ Machine.decodeErrorCode e = .eOp := by
  by_cases hz : f.reservedZero = true
  · by_cases hop : f.opLegal = true
    · have hunused : ¬ f.unusedZero = true := fun hunused => h (by rw [Fields.wordLegal, hz, hop, hunused]; rfl)
      exact ⟨_, decode_of_not_unusedZero f hz hop hunused, rfl⟩
    · exact ⟨_, decode_of_not_opLegal f hz hop, rfl⟩
  · exact ⟨_, decode_of_not_reservedZero f hz, rfl⟩

/-- After steps 1 to 3 the fields not yet known are the tags that the operation uses. -/
theorem wordLegal_shapes (h : f.wordLegal = true) :
    f = Command.nop.fields ∨
    (∃ fa, f = { z3 := 0, op := 1, z2 := 0, fb := 0, z1 := 0, fa := fa }) ∨
    (∃ fa, f = { z3 := 0, op := 2, z2 := 0, fb := 0, z1 := 0, fa := fa }) ∨
    (∃ fb fa, f = { z3 := 0, op := 3, z2 := 0, fb := fb, z1 := 0, fa := fa }) := by
  obtain ⟨hz3, hz2, hz1, hop, hnop, hone⟩ := (wordLegal_iff f).mp h
  obtain ⟨z3, op, z2, fb, z1, fa⟩ := f
  obtain rfl : z3 = 0 := BitVec.eq_of_toNat_eq hz3
  obtain rfl : z2 = 0 := BitVec.eq_of_toNat_eq hz2
  obtain rfl : z1 = 0 := BitVec.eq_of_toNat_eq hz1
  have hops : op = 0 ∨ op = 1 ∨ op = 2 ∨ op = 3 := by bv_omega
  rcases hops with rfl | rfl | rfl | rfl
  · obtain ⟨hfa, hfb⟩ := hnop rfl
    obtain rfl : fa = 0 := BitVec.eq_of_toNat_eq hfa
    obtain rfl : fb = 0 := BitVec.eq_of_toNat_eq hfb
    exact .inl rfl
  · obtain rfl : fb = 0 := BitVec.eq_of_toNat_eq (hone (.inl rfl))
    exact .inr (.inl ⟨fa, rfl⟩)
  · obtain rfl : fb = 0 := BitVec.eq_of_toNat_eq (hone (.inr rfl))
    exact .inr (.inr (.inl ⟨fa, rfl⟩))
  · exact .inr (.inr (.inr ⟨fb, fa, rfl⟩))

/-- Step 4 of R92, after steps 1 to 3: the fields are a command's, or a tag is reserved or of the wrong family. -/
theorem tagStep_cases (h : f.wordLegal = true) :
    (∃ c : Command, f = c.fields) ∨ (¬ f.tagsLegal = true ∧ f.decode = .error .badFormatTag) := by
  rcases wordLegal_shapes f h with rfl | ⟨fa, rfl⟩ | ⟨fa, rfl⟩ | ⟨fb, fa, rfl⟩ <;> rw [tagsLegal_iff]
  · exact .inl ⟨.nop, rfl⟩
  · cases ht : Tag.ofNumber fa with
    | some t => exact .inl ⟨.reqbytes t, by rw [← tag_number_of_ofNumber ht]; rfl⟩
    | none =>
      have hfa := (tag_ofNumber_eq_none_iff fa).mp ht
      exact .inr ⟨fun ⟨hreqbytes, _, _⟩ => hfa (hreqbytes rfl), by simp [Fields.decode, ht]⟩
  · cases hs : RgbTag.ofNumber fa with
    | some src => exact .inl ⟨.normalize src, by rw [← rgbTag_number_of_ofNumber hs]; rfl⟩
    | none =>
      have hfa := (rgbTag_ofNumber_eq_none_iff fa).mp hs
      exact .inr ⟨fun ⟨_, hnormalize, _⟩ => hfa (hnormalize rfl), by simp [Fields.decode, hs]⟩
  · cases hs : RgbTag.ofNumber fa with
    | none =>
      have hfa := (rgbTag_ofNumber_eq_none_iff fa).mp hs
      exact .inr ⟨fun ⟨_, _, hconvert⟩ => hfa (hconvert rfl).1, by simp [Fields.decode, hs]⟩
    | some src =>
      cases ht : YuvTag.ofNumber fb with
      | none =>
        have hfb := (yuvTag_ofNumber_eq_none_iff fb).mp ht
        exact .inr ⟨fun ⟨_, _, hconvert⟩ => hfb (hconvert rfl).2, by simp [Fields.decode, hs, ht]⟩
      | some dst =>
        have hfields : (Command.convert src dst).fields =
            { z3 := 0, op := 3, z2 := 0, fb := dst.number, z1 := 0, fa := src.number } := rfl
        exact .inl ⟨.convert src dst, by
          rw [hfields, rgbTag_number_of_ofNumber hs, yuvTag_number_of_ofNumber ht]⟩

theorem decode_of_not_tagsLegal (hword : f.wordLegal = true) (h : ¬ f.tagsLegal = true) :
    f.decode = .error .badFormatTag := by
  rcases tagStep_cases f hword with ⟨c, rfl⟩ | ⟨-, hbad⟩
  · obtain ⟨-, htags⟩ := (wellFormed_iff _).mp (fields_wellFormed c)
    exact absurd htags h
  · exact hbad

/-- The fields that pass steps 1 to 4 are those of a command (R97). -/
theorem exists_command_of_wellFormed (h : f.wellFormed = true) : ∃ c : Command, f = c.fields := by
  obtain ⟨hword, htags⟩ := (wellFormed_iff f).mp h
  exact (tagStep_cases f hword).resolve_right fun ⟨hbad, _⟩ => hbad htags

/-- The fields decoder accepts the fields of commands and no others (R97). -/
theorem fields_decode_eq_ok_iff (c : Command) : f.decode = .ok c ↔ f = c.fields := by
  refine ⟨fun h => ?accepted, fun h => by rw [h, decode_fields]⟩
  by_cases hword : f.wordLegal = true
  · rcases tagStep_cases f hword with ⟨c', rfl⟩ | ⟨-, hbad⟩
    · rw [decode_fields] at h
      rw [Except.ok.inj h]
    · exact nomatch hbad.symm.trans h
  · obtain ⟨e, hbad, -⟩ := decode_of_not_wordLegal f hword
    exact nomatch hbad.symm.trans h

end Steps

/-! ### The decoder and the encoder of words -/

theorem decode_of_fields_error {k : Word} {e : DecodeError} (h : (Fields.ofWord k).decode = .error e) :
    decode k = .error e := by
  rw [decode, h]

theorem ofWord_eq_fields_iff (k : Word) (c : Command) : Fields.ofWord k = c.fields ↔ k = c.word := by
  constructor
  · intro h
    rw [Command.word, ← h, toWord_ofWord]
  · intro h
    rw [h, Command.word, ofWord_toWord]

@[simp] theorem encode_command_instr (c : Command) : encode c.instr = c.word := by
  rw [encode, command_instr]

/-- Settles O1: the fields decode to a command exactly when they are its fields, and the fields are the word. -/
theorem decodeExactlyTheEncodedWords : Obligations.DecodeExactlyTheEncodedWords := by
  intro k i
  constructor
  · intro h
    cases hfields : (Fields.ofWord k).decode with
    | error e =>
      exact nomatch (decode_of_fields_error hfields).symm.trans h
    | ok c =>
      have hk : k = c.word := (ofWord_eq_fields_iff k c).mp ((fields_decode_eq_ok_iff _ c).mp hfields)
      rw [hk, decode_word] at h
      rw [hk, ← encode_command_instr, Except.ok.inj h]
  · intro h
    rw [h, decode_encode]

/-- Settles O2: `command_word_toNat`, with OP the operation's number and the fields the tags' numbers. -/
theorem commandWordsAsNumbers : Obligations.CommandWordsAsNumbers := by
  refine ⟨by rfl, fun t => ?reqbytes, fun src => ?normalize, fun src dst => ?convert⟩
  case reqbytes => simp [command_word_toNat, Command.op, Command.fa, Command.fb]
  case normalize => simp [command_word_toNat, Command.op, Command.fa, Command.fb]
  case convert => simp [command_word_toNat, Command.op, Command.fa, Command.fb, Nat.mul_comm]

theorem decodeTableWord_encode (i : Instr) : decodeTableWord 32 (encode i).toNat = some i := by
  rw [decodeTableWord, Machine.ofNat_mod_two_pow, BitVec.ofNat_toNat, BitVec.setWidth_eq, decode_encode]

/-- Settles O3: four words are encodings; the others fail step 1, 2, 3 and 4 of R92 in turn. -/
theorem sampleWordsDecode : Obligations.SampleWordsDecode :=
  ⟨decodeTableWord_encode .nop, decodeTableWord_encode .reqbytesYU12, decodeTableWord_encode .normalizeRGB444,
    decodeTableWord_encode .convertRGB888XYVU9,
    decode_of_fields_error (decode_of_not_reservedZero _ (by decide)),
    decode_of_fields_error (decode_of_not_opLegal _ (by decide) (by decide)),
    decode_of_fields_error (decode_of_not_unusedZero _ (by decide) (by decide) (by decide)),
    decode_of_fields_error (decode_of_not_tagsLegal _ (by decide) (by decide))⟩

namespace Machine

/-! ### A word written to CMD -/

/-- Refusal is R262's entry sequence, from IDLE. -/
theorem refuse_eq_refusedWith (s : State) (k : Word) (e : ErrorCode) (hidle : s.status.busy = false) :
    s.refuse k e = refusedWith s k e.number := by
  rw [refusedWith, ← issued_refused s.status e hidle]
  rfl

theorem step_given_cmd (s : State) (k : Word) : step (s.given (.regWrite .word 0 k)) = cmdWrite k s := rfl

/-- A word that does not decode is refused with its error's code (R92, R262). -/
theorem writeGives_of_decode_error (s : State) (k : Word) (e : DecodeError) (hidle : s.status.busy = false)
    (h : decode k = .error e) : WriteGives s 0 k (refusedWith s k (decodeErrorCode e).number) := by
  rw [WriteGives, step_given_cmd, ← refuse_eq_refusedWith s k _ hidle]
  simp [cmdWrite, hidle, h]

/-- The word of a command runs its instruction (R92 step 5). -/
theorem step_given_word (s : State) (c : Command) (hidle : s.status.busy = false) :
    step (s.given (.regWrite .word 0 c.word)) = exec c.instr s := by
  rw [step_given_cmd]
  simp [cmdWrite, hidle]

/-- A pair outside SUPPORTED_PAIRS fails the last clause of step 4 (R92, R264). -/
theorem exec_convert_unsupported (s : State) (src : RgbTag) (dst : YuvTag) (hidle : s.status.busy = false)
    (h : (src, dst) ∉ s.cfg.supportedPairs) :
    exec (Command.convert src dst).instr s = .next (refusedWith s (Command.convert src dst).word 2) := by
  have hcheck : issueCheck (.convert src dst) s.cfg (s.latchOf (Command.convert src dst).word) = some .eFmt := by
    simp [issueCheck, h]
  rw [exec_instr, perform_refused s _ _ hidle hcheck, refuse_eq_refusedWith s _ _ hidle, ErrorCode.number]

/-- Settles O4: the fields' numbers say which step of R92 fails; if none does, the word is a command's. -/
theorem commandWordDecodedInOrder : Obligations.CommandWordDecodedInOrder := by
  intro s k hidle z3 op z2 fb z1 fa badWord badTag
  have hword : (Fields.ofWord k).wordLegal = true ↔ ¬ badWord := by
    simp only [wordLegal_iff, ofWord_z3_toNat, ofWord_op_toNat, ofWord_z2_toNat, ofWord_fb_toNat, ofWord_z1_toNat,
      ofWord_fa_toNat, badWord]
    omega
  have htags : (Fields.ofWord k).tagsLegal = true ↔ ¬ badTag := by
    simp only [tagsLegal_iff, ofWord_op_toNat, ofWord_fb_toNat, ofWord_fa_toNat, badTag]
    omega
  refine ⟨fun hbad => ?steps1to3, fun hok hbad => ?step4, fun hok htag => ?accepted⟩
  case steps1to3 =>
    obtain ⟨e, he, hcode⟩ := decode_of_not_wordLegal _ (fun h => hword.mp h hbad)
    have hgives := writeGives_of_decode_error s k e hidle (decode_of_fields_error he)
    rwa [hcode] at hgives
  case step4 =>
    have he := decode_of_not_tagsLegal _ (hword.mpr hok) (fun h => htags.mp h hbad)
    exact writeGives_of_decode_error s k _ hidle (decode_of_fields_error he)
  case accepted =>
    obtain ⟨c, hc⟩ := exists_command_of_wellFormed _ ((wellFormed_iff _).mpr ⟨hword.mpr hok, htags.mpr htag⟩)
    obtain rfl : k = c.word := (ofWord_eq_fields_iff k c).mp hc
    have hop : c.fields.op.toNat = op := hc ▸ ofWord_op_toNat c.word
    have hfa : c.fields.fa.toNat = fa := hc ▸ ofWord_fa_toNat c.word
    have hfb : c.fields.fb.toNat = fb := hc ▸ ofWord_fb_toNat c.word
    refine ⟨c, hop, hfa, hfb, ?unsupported, step_given_word s c hidle⟩
    rintro src dst rfl hpair
    rw [WriteGives, step_given_word s _ hidle, exec_convert_unsupported s src dst hidle hpair]

end Machine

end Sys2Proof
end

section
/-! PROOFS. Family 40_required_bytes.md: the sizes, divisors and REQBYTES words of the twenty tags (R121 to R140), what
REQBYTES does (R141), and the width and height condition, which is CONVERT's alone (R211, R223). -/

namespace Sys2Proof

/-! ### The words of operation 1 -/

/-- `0x10000 + tag` (R90, R91, R93). -/
theorem reqbytes_word_toNat (g : Tag) : (encode (Command.reqbytes g).instr).toNat = 0x10000 + g.number.toNat := by
  obtain ⟨-, hreqbytes, -, -⟩ := commandWordsAsNumbers
  exact hreqbytes g

theorem exists_reqbytes_of_op {c : Command} (h : c.op.toNat = 1) : ∃ g, c = .reqbytes g := by
  cases c with
  | reqbytes g => exact ⟨g, rfl⟩
  | _ => simp [Command.op] at h

/-- REQBYTES uses FA alone: steps 1 to 3 of R92 leave the other bits of its words 0. -/
theorem wordLegal_iff_of_op_one (k : Word) (hop : k.toNat / 2 ^ 16 % 16 = 1) :
    (Fields.ofWord k).wordLegal = true ↔ ¬ (k.toNat / 2 ^ 20 ≠ 0 ∨ k.toNat / 2 ^ 5 % 2 ^ 11 ≠ 0) := by
  simp only [wordLegal_iff, ofWord_z3_toNat, ofWord_op_toNat, ofWord_z2_toNat, ofWord_fb_toNat, ofWord_z1_toNat,
    ofWord_fa_toNat]
  omega

/-- A word of operation 1 that is no REQBYTES fails steps 1 to 3 of R92, or step 4. -/
theorem decode_error_of_op_one (k : Word) (hop : k.toNat / 2 ^ 16 % 16 = 1)
    (hk : ∀ g : Tag, k ≠ encode (Command.reqbytes g).instr) :
    ∃ e, decode k = .error e ∧ Machine.decodeErrorCode e =
      if k.toNat / 2 ^ 20 ≠ 0 ∨ k.toNat / 2 ^ 5 % 2 ^ 11 ≠ 0 then .eOp else .eFmt := by
  by_cases hword : (Fields.ofWord k).wordLegal = true
  · rw [if_neg ((wordLegal_iff_of_op_one k hop).mp hword)]
    rcases tagStep_cases _ hword with ⟨c, hc⟩ | ⟨-, hbad⟩
    · have hcop : c.op.toNat = 1 := by
        rw [← hop, ← ofWord_op_toNat, hc]
        rfl
      obtain ⟨g, rfl⟩ := exists_reqbytes_of_op hcop
      refine absurd ((ofWord_eq_fields_iff k _).mp hc) ?_
      rw [← encode_command_instr]
      exact hk g
    · exact ⟨_, decode_of_fields_error hbad, rfl⟩
  · rw [if_pos (not_not.mp (mt (wordLegal_iff_of_op_one k hop).mpr hword))]
    obtain ⟨e, he, hcode⟩ := decode_of_not_wordLegal _ hword
    exact ⟨e, decode_of_fields_error he, hcode⟩

namespace Machine

/-! ### How large a size can be -/

/-- RGB888X is the largest format. -/
theorem requiredBytes_le_four_mul (g : Tag) (p : Nat) : requiredBytes g p ≤ 4 * p := by
  rcases g with t | t <;> cases t <;> simp only [requiredBytes, rgbBytes, yuvBytes] <;> omega

/-- 16-bit dimensions bound every size by that of RGB888X at 65535 by 65535 (R28). -/
theorem requiredBytes_mul_le (g : Tag) (w h : Nat) (hw : w ≤ 65535) (hh : h ≤ 65535) :
    requiredBytes g (w * h) ≤ 17179344900 := by
  calc requiredBytes g (w * h) ≤ 4 * (w * h) := requiredBytes_le_four_mul g _
    _ ≤ 4 * (65535 * 65535) := Nat.mul_le_mul_left 4 (Nat.mul_le_mul hw hh)

/-- RESULT loses no bit of a size (R28, R120). -/
theorem result_requiredBytes_toNat (g : Tag) (s : State) :
    (BitVec.ofNat 34 (requiredBytes g s.pixels)).toNat = requiredBytes g s.pixels := by
  have hsize : requiredBytes g s.pixels ≤ 17179344900 :=
    requiredBytes_mul_le g _ _ (Nat.le_of_lt_succ s.width.isLt) (Nat.le_of_lt_succ s.height.isLt)
  rw [BitVec.toNat_ofNat]
  exact Nat.mod_eq_of_lt (by omega)

/-! ### What REQBYTES does -/

section Reqbytes
variable (s : State) (g : Tag) (hidle : s.status.busy = false)
include hidle

/-- A divisible pixel count passes REQBYTES's one check, and the command completes at issue (R141). -/
theorem exec_reqbytes_of_divides (h : s.pixels % divisor g = 0) :
    exec (Command.reqbytes g).instr s =
      .next { s with latched := s.latchOf (Command.reqbytes g).word,
                     result := BitVec.ofNat 34 (requiredBytes g s.pixels), status := .doneOnly } := by
  have hcheck : issueCheck (.reqbytes g) s.cfg (s.latchOf (Command.reqbytes g).word) = none := by
    simp [issueCheck, h]
  have hbegin : s.begin (.reqbytes g) =
      { (s.issue (Command.reqbytes g).word).complete with
          result := BitVec.ofNat 34 (requiredBytes g s.pixels) } := by
    simp [State.begin, hcheck]
  rw [exec_instr, State.perform, if_neg (by simp [hidle]), hbegin]
  rfl

/-- Any other pixel count fails that check, with E_DIM (R141, R265). -/
theorem exec_reqbytes_of_not_divides (h : s.pixels % divisor g ≠ 0) :
    exec (Command.reqbytes g).instr s = .next (refusedWith s (Command.reqbytes g).word 3) := by
  have hcheck : issueCheck (.reqbytes g) s.cfg (s.latchOf (Command.reqbytes g).word) = some .eDim := by
    simp [issueCheck, h]
  rw [exec_instr, perform_refused s _ _ hidle hcheck, refuse_eq_refusedWith s _ _ hidle, ErrorCode.number]

end Reqbytes

/-- Settles O18: the other words by `decode_error_of_op_one`; of a REQBYTES, whether its one check passes. -/
theorem reqbytesWritesResult : Obligations.ReqbytesWritesResult := by
  refine ⟨decode_error_of_op_one, fun g s hidle =>
    ⟨reqbytes_word_toNat g, fun hdiv => ?completes, fun hdiv => ?refused⟩⟩
  case completes =>
    refine ⟨_, result_requiredBytes_toNat g s, ?_⟩
    rw [exec_reqbytes_of_divides s g hidle hdiv, encode_command_instr]
  case refused => rw [exec_reqbytes_of_not_divides s g hidle hdiv, encode_command_instr]

/-! ### The condition on width and height -/

/-- The blocks of the 4:2:0 targets are 2 by 2 pixels and those of the 4:1:0 targets 4 by 4 (R211, R223). -/
theorem dimsFit_iff_of_block (dst : YuvTag) (w h : Nat)
    (hblock : dst ∈ [YuvTag.yv12, .yu12, .nv12, .nv21, .yvu9, .yuv9]) :
    let d := if dst ∈ [YuvTag.yvu9, .yuv9] then 4 else 2
    DimsFit dst w h ↔ w % d = 0 ∧ h % d = 0 := by
  cases dst with
  | yv12 | yu12 | nv12 | nv21 | yvu9 | yuv9 => exact Iff.rfl
  | _ => exact absurd hblock (by decide)

/-- A supported CONVERT whose width or height does not fit its target's blocks is refused with E_DIM (R263, R265). -/
theorem exec_convert_of_not_dimsFit (s : State) (src : RgbTag) (dst : YuvTag) (hidle : s.status.busy = false)
    (hpair : (src, dst) ∈ s.cfg.supportedPairs) (hdims : ¬ DimsFit dst s.width.toNat s.height.toNat) :
    exec (Command.convert src dst).instr s = .next (refusedWith s (Command.convert src dst).word 3) := by
  have hblocks : blocksFit dst s.width.toNat s.height.toNat = false := by
    rwa [← blocksFit_iff, Bool.not_eq_true] at hdims
  have hcheck : issueCheck (.convert src dst) s.cfg (s.latchOf (Command.convert src dst).word) = some .eDim := by
    simp [issueCheck, State.latchOf, hpair, hblocks]
  rw [exec_instr, perform_refused s _ _ hidle hcheck, refuse_eq_refusedWith s _ _ hidle, ErrorCode.number]

/-- Settles O21: REQBYTES checks the pixel count alone; of CONVERT's checks, the one on width and height. -/
theorem blockSizeRules : Obligations.BlockSizeRules := by
  refine ⟨fun p => ⟨rfl, rfl, rfl, rfl, rfl, rfl, rfl, rfl⟩, ?table, fun dst src s hidle hblock => ?commands⟩
  case table =>
    simp only [reqbytes_word_toNat]
    rfl
  case commands =>
    refine ⟨fun hdiv => ⟨_, exec_reqbytes_of_divides s _ hidle hdiv, rfl⟩, fun hpair hsize => ?refused⟩
    have hdims : ¬ DimsFit dst s.width.toNat s.height.toNat := fun hfit =>
      not_and_or.mpr hsize ((dimsFit_iff_of_block dst _ _ hblock).mp hfit)
    rw [exec_convert_of_not_dimsFit s src dst hidle hpair hdims, encode_command_instr]

/-! ### The RGB-family, 4:4:4 and 4:2:2 tags -/

/-- Settles O19: the table by `reqbytes_word_toNat`, the bound by `requiredBytes_mul_le`. -/
theorem rgbSizeRules : Obligations.RgbSizeRules := by
  refine ⟨fun p => ⟨rfl, rfl, rfl, rfl, rfl⟩, fun t => rfl, ?table, requiredBytes_mul_le, rfl⟩
  case table =>
    simp only [reqbytes_word_toNat]
    rfl

/-- Settles O20: the sizes are the tags' equations, the words `reqbytes_word_toNat`. -/
theorem fullAndPairSizeRules : Obligations.FullAndPairSizeRules := by
  refine ⟨fun p => ⟨rfl, rfl, rfl, rfl, rfl, rfl, rfl⟩, ?table⟩
  simp only [reqbytes_word_toNat]
  rfl

end Machine

end Sys2Proof
end

section
/-! PROOFS. Family 41_normalizer.md, unpacking: `Norm` of the five source formats on the bytes of the source (R151 to
R155). -/

namespace Sys2Proof.Machine

/-! ### Fields of a source word -/

/-- A little-endian pixel as a number (R61, R62). -/
theorem memRead16_toNat (m : List Host.Cell) (a : Nat) :
    (memRead16 m a).toNat = (memRead m a).toNat + 256 * (memRead m (a + 1)).toNat := by
  rw [memRead16, toNat_append_eq_add]
  omega

/-- A zero-filled channel: the field at bit `lo`, shifted up within its byte without loss (R152 to R154). -/
theorem zeroFilled_toNat {w : Nat} (p : BitVec w) (lo len up : Nat) (hfit : len + up ≤ 8) :
    ((p.extractLsb' lo len).setWidth 8 <<< up).toNat = p.toNat / 2 ^ lo % 2 ^ len * 2 ^ up := by
  have hfield : p.toNat / 2 ^ lo % 2 ^ len < 2 ^ len := Nat.mod_lt _ (Nat.two_pow_pos len)
  have hbyte : p.toNat / 2 ^ lo % 2 ^ len * 2 ^ up < 2 ^ 8 := calc
    p.toNat / 2 ^ lo % 2 ^ len * 2 ^ up < 2 ^ len * 2 ^ up := Nat.mul_lt_mul_of_pos_right hfield (Nat.two_pow_pos up)
    _ = 2 ^ (len + up) := (pow_add 2 len up).symm
    _ ≤ 2 ^ 8 := Nat.pow_le_pow_right (by decide) hfit
  have hsmall : p.toNat / 2 ^ lo % 2 ^ len < 2 ^ 8 :=
    lt_of_lt_of_le hfield (Nat.pow_le_pow_right (by decide) (by omega))
  rw [BitVec.toNat_shiftLeft, BitVec.toNat_setWidth, BitVec.extractLsb'_toNat, Nat.shiftRight_eq_div_pow,
    Nat.shiftLeft_eq, Nat.mod_eq_of_lt hsmall, Nat.mod_eq_of_lt hbyte]

/-- A mask over one field of a number keeps the field in its place. -/
theorem and_fieldMask (x lo len : Nat) : x &&& (2 ^ len - 1) * 2 ^ lo = x / 2 ^ lo % 2 ^ len * 2 ^ lo := by
  apply Nat.eq_of_testBit_eq
  intro i
  simp only [Nat.testBit_and, Nat.testBit_mul_two_pow, Nat.testBit_two_pow_sub_one, Nat.testBit_mod_two_pow,
    Nat.testBit_div_two_pow]
  by_cases hi : lo ≤ i
  · simp [hi, Bool.and_comm]
  · simp [hi]

/-! ### The channels of each format -/

theorem unpack565_toNat (p : Half) :
    (unpack565 p).r.toNat = p.toNat / 2048 * 8 ∧ (unpack565 p).g.toNat = p.toNat / 32 % 64 * 4 ∧
      (unpack565 p).b.toNat = p.toNat % 32 * 8 := by
  have hp : p.toNat < 65536 := p.isLt
  have hr := zeroFilled_toNat p 11 5 3 (by decide)
  have hg := zeroFilled_toNat p 5 6 2 (by decide)
  have hb := zeroFilled_toNat p 0 5 3 (by decide)
  simp only [unpack565]
  omega

/-- The mask-and-shift form of R152. -/
theorem unpack565_masks (p : Half) :
    (unpack565 p).r.toNat = (p.toNat &&& 0xF800) / 2 ^ 8 ∧ (unpack565 p).g.toNat = (p.toNat &&& 0x07E0) / 2 ^ 3 ∧
      (unpack565 p).b.toNat = (p.toNat &&& 0x001F) * 2 ^ 3 := by
  have hp : p.toNat < 65536 := p.isLt
  obtain ⟨hr, hg, hb⟩ := unpack565_toNat p
  have mr : p.toNat &&& 0xF800 = _ := and_fieldMask p.toNat 11 5
  have mg : p.toNat &&& 0x07E0 = _ := and_fieldMask p.toNat 5 6
  have mb : p.toNat &&& 0x001F = _ := and_fieldMask p.toNat 0 5
  rw [hr, hg, hb, mr, mg, mb]
  omega

theorem unpack555_x1r5g5b5_toNat (p : Half) :
    (unpack555 .x1r5g5b5 p).r.toNat = p.toNat / 1024 % 32 * 8 ∧
      (unpack555 .x1r5g5b5 p).g.toNat = p.toNat / 32 % 32 * 8 ∧
      (unpack555 .x1r5g5b5 p).b.toNat = p.toNat % 32 * 8 := by
  have hb := zeroFilled_toNat p 0 5 3 (by decide)
  rw [pow_zero, Nat.div_one] at hb
  exact ⟨zeroFilled_toNat p 10 5 3 (by decide), zeroFilled_toNat p 5 5 3 (by decide), hb⟩

/-- An even nibble is the low half of its byte. -/
theorem nibbleHigh_even_toNat (m : List Host.Cell) (a i : Nat) :
    (nibbleHigh m a (2 * i)).toNat = (memRead m (a + i)).toNat % 16 * 16 := by
  have hbyte : 2 * i / 2 = i := by omega
  have hhalf : 4 * (2 * i % 2) = 0 := by omega
  rw [nibbleHigh, hbyte, hhalf, zeroFilled_toNat _ 0 4 4 (by decide)]
  omega

/-- An odd nibble is the high half of its byte. -/
theorem nibbleHigh_odd_toNat (m : List Host.Cell) (a i : Nat) :
    (nibbleHigh m a (2 * i + 1)).toNat = (memRead m (a + i)).toNat / 16 * 16 := by
  have hv : (memRead m (a + i)).toNat < 256 := (memRead m (a + i)).isLt
  have hbyte : (2 * i + 1) / 2 = i := by omega
  have hhalf : 4 * ((2 * i + 1) % 2) = 4 := by omega
  rw [nibbleHigh, hbyte, hhalf, zeroFilled_toNat _ 4 4 4 (by decide)]
  omega

section Rgb444
variable (m : List Host.Cell) (s n : Nat)

/-- The even pixel of a group: nibbles 0, 1 and 2 (R154). -/
theorem unpack444_standard_even (hn : n % 2 = 0) :
    (unpack444 .standard m s n).b.toNat = (memRead m (s + 3 * (n / 2))).toNat % 16 * 16 ∧
      (unpack444 .standard m s n).g.toNat = (memRead m (s + 3 * (n / 2))).toNat / 16 * 16 ∧
      (unpack444 .standard m s n).r.toNat = (memRead m (s + 3 * (n / 2) + 1)).toNat % 16 * 16 := by
  rw [unpack444, if_pos hn]
  exact ⟨nibbleHigh_even_toNat m _ 0, nibbleHigh_odd_toNat m _ 0, nibbleHigh_even_toNat m _ 1⟩

/-- The odd pixel of a group: nibbles 3, 4 and 5 (R154). -/
theorem unpack444_standard_odd (hn : n % 2 = 1) :
    (unpack444 .standard m s n).b.toNat = (memRead m (s + 3 * (n / 2) + 1)).toNat / 16 * 16 ∧
      (unpack444 .standard m s n).g.toNat = (memRead m (s + 3 * (n / 2) + 2)).toNat % 16 * 16 ∧
      (unpack444 .standard m s n).r.toNat = (memRead m (s + 3 * (n / 2) + 2)).toNat / 16 * 16 := by
  rw [unpack444, if_neg (by omega)]
  exact ⟨nibbleHigh_odd_toNat m _ 1, nibbleHigh_even_toNat m _ 2, nibbleHigh_odd_toNat m _ 2⟩

end Rgb444

/-- Settles O22: `unpack565_toNat` at the pixel's two bytes, `unpack565_masks`, and the rule's six words. -/
theorem rgb565UnpackRule : Obligations.Rgb565UnpackRule := by
  refine ⟨fun cfg m s n => ?bytes, unpack565_masks, by decide, by decide, by decide, by decide, by decide, by decide⟩
  case bytes =>
    obtain ⟨hr, hg, hb⟩ := unpack565_toNat (memRead16 m (s + 2 * n))
    rw [memRead16_toNat] at hr hg hb
    exact ⟨hr, hg, hb, rfl⟩

/-- Settles O23: RGB888 and RGB888X by definition; RGB555 and RGB444 by their channels at the default layouts. -/
theorem otherUnpackRules : Obligations.OtherUnpackRules := by
  intro cfg m s n byte p b0 b1 b2
  refine ⟨⟨rfl, rfl⟩, fun hlayout => ?rgb555, fun hlayout => ⟨rfl, fun hn => ?even, fun hn => ?odd⟩, ⟨rfl, rfl⟩⟩
  case rgb555 =>
    obtain ⟨hr, hg, hb⟩ := unpack555_x1r5g5b5_toNat (memRead16 m (s + 2 * n))
    rw [memRead16_toNat] at hr hg hb
    rw [norm, hlayout]
    exact ⟨hr, hg, hb, rfl⟩
  case even =>
    rw [norm, hlayout]
    exact unpack444_standard_even m s n hn
  case odd =>
    rw [norm, hlayout]
    exact unpack444_standard_odd m s n hn

end Sys2Proof.Machine
end

section
/-! PROOFS. Family 41_normalizer.md, the NORMALIZE command: the canonical array it writes, the frame it keeps and when it
is refused (R156, R157). -/

namespace Sys2Proof.Machine

/-! ### The canonical array -/

@[simp] theorem pixelAt_storePixel_same (m : List Host.Cell) (a : Nat) (x : Pixel) :
    pixelAt (storePixel m a x) a = x := by
  simp [pixelAt, memRead_storePixel]

/-- A pixel stored after another leaves it. -/
theorem pixelAt_storePixel_of_le (m : List Host.Cell) (a b : Nat) (x : Pixel) (h : b + 3 ≤ a) :
    pixelAt (storePixel m a x) b = pixelAt m b := by
  have kept (i : Nat) (hi : i < 3) : memRead (storePixel m a x) (b + i) = memRead m (b + i) := by
    rw [memRead_storePixel, if_neg (by omega), if_neg (by omega), if_neg (by omega)]
  rw [pixelAt, pixelAt, ← kept 1 (by omega), ← kept 2 (by omega)]
  exact congrArg (fun b => Pixel.mk b _ _) (kept 0 (by omega))

/-- The memory after the first `k` pixels `x` of a canonical array stored at `c`. -/
def storePixels (x : Nat → Pixel) (c : Nat) : Nat → List Host.Cell → List Host.Cell
  | 0, m => m
  | k + 1, m => storePixel (storePixels x c k m) (c + 3 * k) (x k)

theorem storePixels_sameOutside (x : Nat → Pixel) (c k : Nat) (m : List Host.Cell) {len : Nat}
    (hlen : 3 * k ≤ len) : SameOutside m (storePixels x c k m) c len := by
  induction k with
  | zero => exact .rfl
  | succ k ih => exact (ih (by omega)).trans (storePixel_sameOutside _ _ _ (by omega) (by omega))

theorem pixelAt_storePixels (x : Nat → Pixel) (c k n : Nat) (m : List Host.Cell) (hn : n < k) :
    pixelAt (storePixels x c k m) (c + 3 * n) = x n := by
  induction k with
  | zero => omega
  | succ k ih =>
    rw [storePixels]
    rcases Nat.lt_succ_iff_lt_or_eq.mp hn with hlt | rfl
    · rw [pixelAt_storePixel_of_le _ _ _ _ (by omega), ih hlt]
    · exact pixelAt_storePixel_same _ _ _

/-! ### The pixels of NORMALIZE -/

/-- NORMALIZE of RGB888 counts its pixels and does no more (R156, log 13). -/
theorem pixelSteps_normalize_rgb888 (k : Nat) (s : State) :
    State.pixelSteps (.normalize .rgb888) k s = { s with pixel := s.pixel + BitVec.ofNat 32 k } := by
  induction k with
  | zero => simp [State.pixelSteps]
  | succ k ih =>
    rw [pixelSteps_succ, ih]
    simp [State.pixelStep, State.normalizePixel, BitVec.add_assoc, BitVec.ofNat_add]

/-- The first `k` pixels of NORMALIZE of a packed format whose buffers are apart: the source is read as it was at issue
(R69, R156). -/
theorem pixelSteps_normalize_packed (s : State) (src : RgbTag) (k : Nat) (hpacked : src ≠ .rgb888)
    (hzero : s.pixel = 0)
    (hapart : Apart s.latched.s.toNat (rgbBytes src s.latched.p.toNat) s.latched.c.toNat (3 * s.latched.p.toNat))
    (hk : k ≤ s.latched.p.toNat) :
    State.pixelSteps (.normalize src) k s =
      { s with pixel := BitVec.ofNat 32 k,
               mem := storePixels (norm s.cfg s.mem src s.latched.s.toNat) s.latched.c.toNat k s.mem } := by
  induction k with
  | zero =>
    have : s.pixel = BitVec.ofNat 32 0 := hzero
    simp only [State.pixelSteps, storePixels, ← this]
  | succ k ih =>
    have hlt := s.latched.p.isLt
    have hindex : (BitVec.ofNat 32 k).toNat = k := by rw [BitVec.toNat_ofNat]; omega
    have hnext : BitVec.ofNat 32 k + 1 = BitVec.ofNat 32 (k + 1) := by rw [BitVec.ofNat_add]; rfl
    have hsource : norm s.cfg (storePixels (norm s.cfg s.mem src s.latched.s.toNat) s.latched.c.toNat k s.mem) src
        s.latched.s.toNat k = norm s.cfg s.mem src s.latched.s.toNat k := by
      refine norm_congr _ _ _ _ _ s.latched.p.toNat _ (by omega) fun a hlow hhigh => ?_
      refine storePixels_sameOutside _ _ k s.mem (len := 3 * s.latched.p.toNat) (by omega) a fun hin => ?_
      unfold Apart at hapart
      omega
    rw [pixelSteps_succ, ih (by omega)]
    cases src with
    | rgb888 => exact absurd rfl hpacked
    | _ => simp only [State.pixelStep, State.normalizePixel, storePixels, hindex, hnext, hsource]

/-! ### What an accepted command leaves -/

/-- Every field of an accepted NORMALIZE or CONVERT but the memory, the accumulators and CAN_PTR (R26, R33). -/
theorem completedFrame_of_accepted (s : State) (c : Command) (hidle : s.status.busy = false) (hc : c.PerPixel)
    (hnone : issueCheck c s.cfg (s.latchOf c.word) = none) : CompletedFrame s (s.perform c) c := by
  rw [perform_accepted s c hidle hc hnone]
  constructor
  case pixel =>
    have hlt := (s.latchOf c.word).p.isLt
    rw [latchOf_p] at hlt
    simp [pixelSteps_pixel, Nat.mod_eq_of_lt hlt]
  case draws => rw [finish_draws _ _ (by simp)]; simp
  all_goals simp

/-- NORMALIZE of RGB888 is accepted exactly when its source is inside the memory: it writes none (R156, R157). -/
theorem issueCheck_normalize_rgb888_none (s : State) (k : Word) :
    issueCheck (.normalize .rgb888) s.cfg (s.latchOf k) = none ↔ s.Holds s.srcAddr.toNat (3 * s.pixels) := by
  rw [issueCheck, rangeCheck_none_iff]
  simp only [sourceRange, writeRange, latchOf_p, Apart, rgbBytes, true_or, or_true, and_true]
  rfl

/-- NORMALIZE of RGB888, accepted: CAN_PTR names the source itself (R156). -/
theorem perform_normalize_rgb888 (s : State) (hidle : s.status.busy = false)
    (hsource : s.Holds s.srcAddr.toNat (3 * s.pixels)) :
    let t := s.perform (.normalize .rgb888)
    t.canPtr = s.srcAddr ∧ t.mem = s.mem ∧ t.accU = s.accU ∧ t.accV = s.accV ∧
      CompletedFrame s t (.normalize .rgb888) := by
  have hc : (Command.normalize .rgb888).PerPixel := .inl ⟨_, rfl⟩
  have hnone := (issueCheck_normalize_rgb888_none s (Command.normalize .rgb888).word).mpr hsource
  have hperform := perform_accepted s _ hidle hc hnone
  rw [pixelSteps_normalize_rgb888] at hperform
  refine ⟨?canPtr, ?mem, ?accU, ?accV, completedFrame_of_accepted s _ hidle hc hnone⟩
  all_goals
    rw [hperform]
    rfl

theorem canPtrAfter_normalize_packed (s : State) (src : RgbTag) (hpacked : src ≠ .rgb888) :
    s.canPtrAfter (.normalize src) = s.latched.c := by
  cases src with
  | rgb888 => exact absurd rfl hpacked
  | _ => rfl

/-- NORMALIZE of a packed format, accepted: the memory is the old one with the canonical array stored at C (R156). -/
theorem perform_normalize_packed (s : State) (src : RgbTag) (hpacked : src ≠ .rgb888) (h : NormalizeReady s src) :
    let t := s.perform (.normalize src)
    t.canPtr = s.canAddr ∧
      t.mem = storePixels (norm s.cfg s.mem src s.srcAddr.toNat) s.canAddr.toNat s.pixels s.mem ∧
      t.accU = s.accU ∧ t.accV = s.accV ∧ CompletedFrame s t (.normalize src) := by
  have hc : (Command.normalize src).PerPixel := .inl ⟨_, rfl⟩
  have hnone := (issueCheck_normalize_none s src (Command.normalize src).word h.idle hpacked).mpr h
  have hp := latchOf_p s (Command.normalize src).word
  have hperform := perform_accepted s _ h.idle hc hnone
  rw [pixelSteps_normalize_packed _ src s.pixels hpacked rfl
    (by rw [State.start_latched, State.issue_latched, hp]; exact h.apart) hp.ge] at hperform
  refine ⟨?canPtr, ?mem, ?accU, ?accV, completedFrame_of_accepted s _ h.idle hc hnone⟩
  case canPtr =>
    rw [hperform, State.finish_canPtr, canPtrAfter_normalize_packed _ src hpacked]
    rfl
  all_goals
    rw [hperform]
    rfl

/-- Settles O24: `perform_normalize_rgb888`. -/
theorem normalizeRgb888AliasesSource : Obligations.NormalizeRgb888AliasesSource :=
  fun s hidle hsource => ⟨_, exec_instr (.normalize .rgb888) s, perform_normalize_rgb888 s hidle hsource⟩

/-- Settles O25: the memory by `perform_normalize_packed`, its bytes by the two laws of `storePixels`. -/
theorem normalizeWritesCanonicalArray : Obligations.NormalizeWritesCanonicalArray := by
  intro src s hpacked hready
  obtain ⟨hptr, hmem, hu, hv, hframe⟩ := perform_normalize_packed s src hpacked hready
  refine ⟨_, exec_instr _ s, hptr, fun n hn => ?bytes, ?outside, hu, hv, hframe⟩
  case bytes =>
    have hpixel := pixelAt_storePixels (norm s.cfg s.mem src s.srcAddr.toNat) s.canAddr.toNat s.pixels n s.mem hn
    rw [← hmem] at hpixel
    rw [← hpixel]
    exact ⟨rfl, rfl, rfl⟩
  case outside =>
    rw [hmem]
    exact storePixels_sameOutside _ _ _ _ le_rfl

/-! ### Refusals -/

/-- Step 7 of R263 fails on either range outside the memory. -/
theorem rangeCheck_eRange (memSize : Nat) (src dst : Nat × Nat)
    (h : ¬((src.2 = 0 ∨ src.1 + src.2 ≤ memSize) ∧ (dst.2 = 0 ∨ dst.1 + dst.2 ≤ memSize))) :
    rangeCheck memSize src dst = some .eRange := by
  rw [← inside_iff, ← inside_iff] at h
  exact if_pos (by simpa [imp_iff_not_or] using h)

/-- Step 8 of R263 fails on ranges inside the memory that share a byte. -/
theorem rangeCheck_eAlias (memSize : Nat) (src dst : Nat × Nat) (hsrc : src.2 = 0 ∨ src.1 + src.2 ≤ memSize)
    (hdst : dst.2 = 0 ∨ dst.1 + dst.2 ≤ memSize) (hshared : ¬Apart src.1 src.2 dst.1 dst.2) :
    rangeCheck memSize src dst = some .eAlias := by
  rw [← inside_iff] at hsrc hdst
  rw [← overlap_false_iff, Bool.not_eq_false] at hshared
  simp [rangeCheck, hsrc, hdst, hshared]

/-- NORMALIZE of RGB888 has no canonical range to check (R156). -/
theorem writeRange_normalize_inside_iff (s : State) (src : RgbTag) (k : Word) :
    ((writeRange (.normalize src) (s.latchOf k)).2 = 0 ∨ (writeRange (.normalize src) (s.latchOf k)).1 +
      (writeRange (.normalize src) (s.latchOf k)).2 ≤ s.cfg.memSize) ↔
    (src = .rgb888 ∨ s.Holds s.canAddr.toNat (3 * s.pixels)) := by
  by_cases hsrc : src = .rgb888
  · subst hsrc
    simp [writeRange]
  · rw [writeRange_normalize src _ hsrc, latchOf_p]
    simp only [hsrc, false_or]
    rfl

/-- A command whose first failing check is `e`, refused (R262, R263). -/
theorem exec_eq_refusedWith (s : State) (c : Command) (e : ErrorCode) (hidle : s.status.busy = false)
    (h : issueCheck c s.cfg (s.latchOf c.word) = some e) :
    exec c.instr s = .next (refusedWith s (encode c.instr) e.number) := by
  rw [exec_instr, perform_refused s c e hidle h, refuse_eq_refusedWith s _ _ hidle, encode_command_instr]

/-- Settles O26: the two ways `rangeCheck` fails, on the ranges of NORMALIZE. -/
theorem normalizeRefusals : Obligations.NormalizeRefusals := by
  intro src s hidle refused ranges
  have hsource : sourceRange (.normalize src) (s.latchOf (Command.normalize src).word) =
      (s.srcAddr.toNat, rgbBytes src s.pixels) := by
    rw [sourceRange, latchOf_p]
    rfl
  have hcanonical := writeRange_normalize_inside_iff s src (Command.normalize src).word
  refine ⟨fun houtside => ?range, fun hinside hpacked hshared => ?shared⟩
  case range =>
    refine exec_eq_refusedWith s _ .eRange hidle (rangeCheck_eRange _ _ _ fun hin => houtside ?_)
    rw [hsource] at hin
    exact ⟨hin.1, hcanonical.mp hin.2⟩
  case shared =>
    obtain ⟨hsrc, hcan⟩ := hinside
    refine exec_eq_refusedWith s _ .eAlias hidle (rangeCheck_eAlias _ _ _ ?_ (hcanonical.mpr hcan) ?_)
    · rw [hsource]
      exact hsrc
    · rw [hsource, writeRange_normalize src _ hpacked, latchOf_p]
      exact hshared

end Sys2Proof.Machine
end

section
/-! PROOFS. Family 41_normalizer.md, the equivalence: a CONVERT of a packed source is a NORMALIZE of it followed by a
CONVERT of the canonical array (R158, R241). -/

namespace Sys2Proof.Machine

/-! ### A completed command was ready -/

/-- A refused command does not end with DONE (R262). -/
theorem issueCheck_none_of_done (s : State) (c : Command) (hidle : s.status.busy = false)
    (hdone : (s.perform c).status = .doneOnly) : issueCheck c s.cfg (s.latchOf c.word) = none := by
  cases hcheck : issueCheck c s.cfg (s.latchOf c.word) with
  | none => rfl
  | some e =>
    rw [perform_refused s c e hidle hcheck, State.refuse_status, issued_refused _ e hidle] at hdone
    exact absurd (congrArg Status.done hdone) Bool.false_ne_true

theorem normalizeReady_of_done (s : State) (src : RgbTag) (hpacked : src ≠ .rgb888) (hidle : s.status.busy = false)
    (hdone : (s.perform (.normalize src)).status = .doneOnly) : NormalizeReady s src :=
  (issueCheck_normalize_none s src _ hidle hpacked).mp (issueCheck_none_of_done s _ hidle hdone)

theorem convertReady_of_done (s : State) (src : RgbTag) (dst : YuvTag) (hidle : s.status.busy = false)
    (hdone : (s.perform (.convert src dst)).status = .doneOnly) : ConvertReady s src dst :=
  (issueCheck_convert_none s src dst _ hidle).mp (issueCheck_none_of_done s _ hidle hdone)

/-! ### A writer reads no byte of the memory it writes -/

/-- Two writers that agree on the accumulators and on the byte at `a`. -/
structure AgreeAt (a : Nat) (t t' : WriterState) : Prop where
  byte : memRead t'.mem a = memRead t.mem a
  accU : t'.accU = t.accU
  accV : t'.accV = t.accV

theorem memRead_write_congr {m m' : List Host.Cell} {a : Nat} (b : Nat) (v : Byte) (h : memRead m' a = memRead m a) :
    memRead (memWrite m' b v) a = memRead (memWrite m b v) a := by
  rw [memRead_write, memRead_write, h]

theorem writeChroma_agreeAt {a : Nat} {t t' : WriterState} (dst : YuvTag) (p d : Nat) (g : GroupStep) (x : Yuv)
    (h : AgreeAt a t t') : AgreeAt a (writeChroma dst p d g x t) (writeChroma dst p d g x t') := by
  obtain ⟨hu, hv, hkept, hstored⟩ := writeChroma_eq dst p d g x t
  obtain ⟨hu', hv', hkept', hstored'⟩ := writeChroma_eq dst p d g x t'
  refine ⟨?byte, by rw [hu, hu', h.accU], by rw [hv, hv', h.accV]⟩
  case byte =>
    cases hlast : g.last with
    | false =>
      rw [hkept hlast, hkept' hlast]
      exact h.byte
    | true =>
      rw [hstored hlast, hstored' hlast, h.accU, h.accV]
      exact memRead_write_congr _ _ (memRead_write_congr _ _ h.byte)

/-- One pixel of the writer keeps the agreement: what it stores comes from its sample and the accumulators. -/
theorem writePixel_agreeAt {a : Nat} {t t' : WriterState} (dst : YuvTag) (w p d n : Nat) (x : Yuv)
    (h : AgreeAt a t t') : AgreeAt a (writePixel dst w p d n x t) (writePixel dst w p d n x t') := by
  have hluma : AgreeAt a { t with mem := memWrite t.mem (d + lumaOffset dst n) x.y }
      { t' with mem := memWrite t'.mem (d + lumaOffset dst n) x.y } :=
    ⟨memRead_write_congr _ _ h.byte, h.accU, h.accV⟩
  by_cases hs : subsampling dst = .s444
  · rw [writePixel_full dst w p d n x t hs, writePixel_full dst w p d n x t' hs]
    exact ⟨memRead_write_congr _ _ (memRead_write_congr _ _ hluma.byte), h.accU, h.accV⟩
  · rw [writePixel_subsampled dst w p d n x t hs, writePixel_subsampled dst w p d n x t' hs]
    exact writeChroma_agreeAt dst p d _ x hluma

theorem writerRun_agreeAt {a : Nat} {t t' : WriterState} (dst : YuvTag) (w p d : Nat) (x : Nat → Yuv) (k : Nat)
    (h : AgreeAt a t t') : AgreeAt a (writerRun dst w p d x k t) (writerRun dst w p d x k t') := by
  induction k with
  | zero => exact h
  | succ k ih => exact writePixel_agreeAt dst w p d k (x k) ih

/-- Two CONVERTs of equal samples to one destination store equal bytes wherever their memories agree at issue. -/
theorem perform_convert_agree {s t : State} {src src' : RgbTag} {dst : YuvTag} {a : Nat}
    (hs : ConvertReady s src dst) (ht : ConvertReady t src' dst) (hwidth : t.width = s.width)
    (hheight : t.height = s.height) (hdst : t.dstAddr = s.dstAddr)
    (hsamples : ∀ n, n < s.pixels → t.yuvAt src' n = s.yuvAt src n)
    (hagree : AgreeAt a ⟨s.mem, s.accU, s.accV⟩ ⟨t.mem, t.accU, t.accV⟩) :
    memRead (t.perform (.convert src' dst)).mem a = memRead (s.perform (.convert src dst)).mem a := by
  have hpixels : t.pixels = s.pixels := by rw [State.pixels, State.pixels, hwidth, hheight]
  obtain ⟨-, -, hmem, -, -⟩ := perform_convert s src dst hs
  obtain ⟨-, -, hmem', -, -⟩ := perform_convert t src' dst ht
  rw [hmem, hmem', hwidth, hpixels, hdst, writerRun_congr _ _ _ _ _ _ _ _ hsamples]
  exact (writerRun_agreeAt dst _ _ _ _ _ hagree).byte

/-! ### The canonical array as a source -/

/-- The samples of the canonical array that NORMALIZE left are those of its source (R151, R156). -/
theorem yuvAt_canonical {s t : State} {src : RgbTag} (hcfg : t.cfg = s.cfg)
    (hmem : t.mem = storePixels (norm s.cfg s.mem src s.srcAddr.toNat) s.canAddr.toNat s.pixels s.mem)
    (hsrc : t.srcAddr = s.canAddr) (n : Nat) (hn : n < s.pixels) : t.yuvAt .rgb888 n = s.yuvAt src n := by
  have hpixel : norm t.cfg t.mem .rgb888 t.srcAddr.toNat n = norm s.cfg s.mem src s.srcAddr.toNat n := by
    rw [hmem, hsrc]
    exact pixelAt_storePixels _ _ _ _ _ hn
  rw [State.yuvAt, State.yuvAt, hpixel, hcfg]

/-- Settles O41: both conversions are runs over the same samples, and their memories agree on the destination, since the
second CONVERT's own check keeps the canonical array apart from it. -/
theorem convertIsNormalizeThenConvert : Obligations.ConvertIsNormalizeThenConvert := by
  intro src dst s t u v hidle hpacked hexecT hdoneT hexecU hdoneU hexecV hdoneV j hj
  rw [exec_instr] at hexecT hexecU hexecV
  injection hexecT with hperform
  injection hexecU with hperformU
  injection hexecV with hperformV
  subst hperformU hperformV
  have hnormal := normalizeReady_of_done s src hpacked hidle (by rw [hperform, hdoneT])
  obtain ⟨hptr, hmem, hu, hv, hframe⟩ := perform_normalize_packed s src hpacked hnormal
  rw [hperform] at hptr hmem hu hv hframe
  have hready := convertReady_of_done s src dst hidle hdoneU
  have hready' := convertReady_of_done _ _ _ (by rw [hdoneT]; rfl) hdoneV
  have houtside : memRead t.mem (s.dstAddr.toNat + j) = memRead s.mem (s.dstAddr.toNat + j) := by
    rw [hmem]
    refine storePixels_sameOutside _ _ _ _ le_rfl _ fun hin => ?_
    have hapart := hready'.apart
    simp only [State.pixels, hptr, hframe.width, hframe.height, hframe.dstAddr, rgbBytes, Apart] at hapart
    simp only [State.pixels] at hin hj
    omega
  exact (perform_convert_agree hready hready' hframe.width hframe.height hframe.dstAddr
    (yuvAt_canonical hframe.cfg hmem hptr) ⟨houtside, hu, hv⟩).symm

end Sys2Proof.Machine
end

section
/-! PROOFS. Family 42_matrix.md: `convert` of one row, the clamp, and the spec's table, where the clamp never acts (R170
to R177). -/

namespace Sys2Proof.Machine

/-! ### The clamp (R171) -/

theorem clamp_of_neg {x : Int} (h : x < 0) : clamp x = 0 := if_pos h

theorem clamp_of_gt {x : Int} (h : 255 < x) : clamp x = 255 := by
  rw [clamp, if_neg (by omega), if_pos h]

theorem clamp_of_byte {x : Int} (hlo : 0 ≤ x) (hhi : x ≤ 255) : clamp x = x := by
  rw [clamp, if_neg (by omega), if_neg (by omega)]

/-- The clamp is the nearest number of 0..255, so its order facts are those of `min` and `max`. -/
theorem clamp_eq_max_min (x : Int) : clamp x = max 0 (min 255 x) := by
  rcases lt_or_ge x 0 with hneg | hlo
  · rw [clamp_of_neg hneg]
    omega
  rcases lt_or_ge 255 x with hgt | hhi
  · rw [clamp_of_gt hgt]
    omega
  · rw [clamp_of_byte hlo hhi]
    omega

theorem clamp_nonneg (x : Int) : 0 ≤ clamp x := by
  rw [clamp_eq_max_min]
  exact le_max_left _ _

theorem clamp_le (x : Int) : clamp x ≤ 255 := by
  rw [clamp_eq_max_min]
  exact max_le (by decide) (min_le_left _ _)

theorem clamp_mono {x y : Int} (h : x ≤ y) : clamp x ≤ clamp y := by
  rw [clamp_eq_max_min, clamp_eq_max_min]
  exact max_le_max_left _ (min_le_min_left _ h)

/-! ### One row (R170) -/

/-- The arithmetic shift is floor division by 256, for negative sums too (R5, R177 (b)). -/
theorem convertRow_eq_floor (w : MatrixRow) (c1 c2 c3 : Byte) :
    convertRow w c1 c2 c3 = clamp ((w.a * c1.toNat + w.b * c2.toNat + w.c * c3.toNat + w.d) / 256 + w.e) := by
  rw [convertRow, Int.shiftRight_eq_div_pow]
  rfl

theorem convertRow_nonneg (w : MatrixRow) (c1 c2 c3 : Byte) : 0 ≤ convertRow w c1 c2 c3 := clamp_nonneg _

theorem convertRow_le (w : MatrixRow) (c1 c2 c3 : Byte) : convertRow w c1 c2 c3 ≤ 255 := clamp_le _

/-- Narrowing to a byte loses nothing; the arguments are R, G, B (R176). -/
theorem channel_toNat (w : MatrixRow) (x : Pixel) : ((channel w x).toNat : Int) = convertRow w x.r x.g x.b := by
  have hlo := convertRow_nonneg w x.r x.g x.b
  have hhi := convertRow_le w x.r x.g x.b
  have hbyte : (convertRow w x.r x.g x.b).toNat < 2 ^ 8 := by omega
  rw [channel, BitVec.toNat_ofNat, Nat.mod_eq_of_lt hbyte, Int.toNat_of_nonneg hlo]

/-- Settles O27: the clauses are the laws of the clamp and of one row above. -/
theorem convertFunctionAndClamp : Obligations.ConvertFunctionAndClamp :=
  ⟨fun w c1 c2 c3 => ⟨convertRow_eq_floor w c1 c2 c3, convertRow_nonneg w c1 c2 c3, convertRow_le w c1 c2 c3⟩,
    fun t x => ⟨channel_toNat t.y x, channel_toNat t.u x, channel_toNat t.v x⟩,
    fun _ => clamp_of_neg, fun _ => clamp_of_gt, fun _ => clamp_of_byte, fun _ _ => clamp_mono,
    clamp_of_neg (by decide), clamp_of_gt (by decide), clamp_of_byte (by decide) (by decide),
    clamp_of_byte (by decide) (by decide), clamp_of_byte (by decide) (by decide), clamp_of_neg (by decide),
    clamp_of_gt (by decide)⟩

/-! ### The spec's table (R172) -/

/-- Where the floored and offset sum is a number of 8 bits, `convert` is that sum: the clamp does not act. -/
theorem convertRow_unclamped {w : MatrixRow} {c1 c2 c3 : Byte} {x : Int}
    (hx : (w.a * c1.toNat + w.b * c2.toNat + w.c * c3.toNat + w.d) / 256 + w.e = x) (hlo : 0 ≤ x) (hhi : x ≤ 255) :
    convertRow w c1 c2 c3 = x := by
  rw [convertRow_eq_floor, hx, clamp_of_byte hlo hhi]

section Rows
variable (r g b : Byte)

/-- Row Y (R173). -/
theorem convertRow_bt601_y :
    convertRow Matrix.bt601.y r g b = (66 * r.toNat + 129 * g.toNat + 25 * b.toNat + 128 : Int) / 256 + 16 :=
  convertRow_unclamped rfl (by omega) (by omega)

/-- Row U (R174); the rule subtracts where the table has a negative coefficient. -/
theorem convertRow_bt601_u :
    convertRow Matrix.bt601.u r g b = (-38 * r.toNat - 74 * g.toNat + 112 * b.toNat + 128 : Int) / 256 + 128 := by
  refine convertRow_unclamped ?_ (by omega) (by omega)
  simp only [Matrix.bt601]
  omega

/-- Row V (R175); the rule subtracts where the table has a negative coefficient. -/
theorem convertRow_bt601_v :
    convertRow Matrix.bt601.v r g b = (112 * r.toNat - 94 * g.toNat - 18 * b.toNat + 128 : Int) / 256 + 128 := by
  refine convertRow_unclamped ?_ (by omega) (by omega)
  simp only [Matrix.bt601]
  omega

/-- The coefficients of row Y are positive and sum to 220: least at black, greatest at white. -/
theorem convertRow_bt601_y_range : 16 ≤ convertRow Matrix.bt601.y r g b ∧ convertRow Matrix.bt601.y r g b ≤ 235 := by
  rw [convertRow_bt601_y]
  omega

/-- The negative coefficients of a chroma row sum to -112 and its positive one is 112. -/
theorem convertRow_bt601_u_range : 16 ≤ convertRow Matrix.bt601.u r g b ∧ convertRow Matrix.bt601.u r g b ≤ 240 := by
  rw [convertRow_bt601_u]
  omega

theorem convertRow_bt601_v_range : 16 ≤ convertRow Matrix.bt601.v r g b ∧ convertRow Matrix.bt601.v r g b ≤ 240 := by
  rw [convertRow_bt601_v]
  omega

/-- The coefficients of each chroma row sum to zero, so a grey keeps only the rounding term and the offset. -/
theorem chroma_of_grey : convertRow Matrix.bt601.u r r r = 128 ∧ convertRow Matrix.bt601.v r r r = 128 := by
  rw [convertRow_bt601_u, convertRow_bt601_v]
  omega

end Rows

/-- Settles O28: each row is its unclamped sum over bytes, which has the rule's range; the extremes and the greys are
values of that sum. -/
theorem matrixRows : Obligations.MatrixRows := by
  refine ⟨rfl, fun r g b => ?_, convertRow_bt601_y 0 0 0, convertRow_bt601_y 255 255 255, convertRow_bt601_u 255 255 0,
    convertRow_bt601_u 0 0 255, convertRow_bt601_v 0 255 255, convertRow_bt601_v 255 0 0⟩
  have hgrey : r = g → g = b → convertRow Matrix.bt601.u r g b = 128 ∧ convertRow Matrix.bt601.v r g b = 128 := by
    rintro rfl rfl
    exact chroma_of_grey r
  obtain ⟨hylo, hyhi⟩ := convertRow_bt601_y_range r g b
  obtain ⟨hulo, huhi⟩ := convertRow_bt601_u_range r g b
  obtain ⟨hvlo, hvhi⟩ := convertRow_bt601_v_range r g b
  exact ⟨convertRow_bt601_y r g b, hylo, hyhi, convertRow_bt601_u r g b, hulo, huhi, convertRow_bt601_v r g b, hvlo,
    hvhi, hgrey⟩

end Sys2Proof.Machine
end

section
/-! PROOFS. Family 43_writers_444_422.md, every target: a finished run of the writer holds each luma sample and, for each
chroma group, the average the group's class asks for (R191, R193, R211, R217, R223); uniform images (R199). -/

namespace Sys2Proof.Machine

/-! ### Averages of bytes -/

/-- The average a target of a class stores for chroma group `g`; blocks are counted row by row (R191, R193, R211, R217,
R223). -/
def chromaAverage (cls : Subsampling) (x : Nat → Byte) (w g : Nat) : Nat :=
  match cls with
  | .s444 => (x g).toNat
  | .s422 => pairAverage x g
  | .s411 => fourAverage x g
  | .s420 => block2Average x w (g / (w / 2)) (g % (w / 2))
  | .s410 => block4Average x w (g / (w / 4)) (g % (w / 4))

/-- R199: an average of equal samples is the sample. -/
theorem chromaAverage_const (cls : Subsampling) (c : Byte) (w g : Nat) :
    chromaAverage cls (fun _ => c) w g = c.toNat := by
  cases cls with
  | s444 => rfl
  | s422 => simp only [chromaAverage, pairAverage]; omega
  | s411 => simp only [chromaAverage, fourAverage]; omega
  | s420 => simp only [chromaAverage, block2Average]; omega
  | s410 => simp only [chromaAverage, block4Average, sum4]; omega

/-- The sum of at most sixteen bytes fits the 12 bits of an entry, and its average a byte (R36, R177 (c)). -/
theorem averageByte_ofNat_toNat {sum shift : Nat} (hsum : sum < 256 * 2 ^ shift) (hshift : shift ≤ 4) :
    (averageByte (BitVec.ofNat 12 sum) shift).toNat = sum / 2 ^ shift := by
  have hentry : sum < 2 ^ 12 :=
    calc sum < 256 * 2 ^ shift := hsum
      _ ≤ 256 * 2 ^ 4 := Nat.mul_le_mul_left _ (Nat.pow_le_pow_right (by decide) hshift)
  have hbyte : sum / 2 ^ shift < 256 := Nat.div_lt_of_lt_mul (by rwa [Nat.mul_comm])
  rw [averageByte_toNat, BitVec.toNat_ofNat, Nat.mod_eq_of_lt hentry, Nat.mod_eq_of_lt hbyte]

theorem groupStep_shift_le (cls : Subsampling) (w n : Nat) : (groupStep cls w n).shift ≤ 4 := by
  cases cls <;> simp [groupStep]

/-- The byte emitted for a group whose sum is known. -/
theorem averageByte_groupSum {cls : Subsampling} {w n g sum : Nat} {x : Nat → Byte}
    (hgroup : (groupStep cls w n).group = g)
    (hpartial : partialSum (fun m => (groupStep cls w m).group) (fun m => (x m).toNat) g (n + 1) = sum)
    (hsum : sum < 256 * 2 ^ (groupStep cls w n).shift) :
    (averageByte (groupSum cls w x n (n + 1)) (groupStep cls w n).shift).toNat =
      sum / 2 ^ (groupStep cls w n).shift := by
  rw [groupSum, hgroup, hpartial, averageByte_ofNat_toNat hsum (groupStep_shift_le cls w n)]

/-! ### The pixel that finishes a group -/

/-- Pixel `n` of the first `p` finishes chroma group `g`, and what it emits is the group's average. -/
structure ClosesGroup (cls : Subsampling) (w p g n : Nat) : Prop where
  lt : n < p
  last : (groupStep cls w n).last = true
  group : (groupStep cls w n).group = g
  average : ∀ x : Nat → Byte, (averageByte (groupSum cls w x n (n + 1)) (groupStep cls w n).shift).toNat =
    chromaAverage cls x w g

/-- The second pixel of a pair (R193). -/
theorem closesGroup_pair (w p g : Nat) (hg : g < p / 2) : ClosesGroup .s422 w p g (2 * g + 1) := by
  have hgroup : (2 * g + 1) / 2 = g := by omega
  refine ⟨by omega, beq_iff_eq.mpr (by omega), hgroup, fun x => ?_⟩
  have h0 := (x (2 * g)).isLt
  have h1 := (x (2 * g + 1)).isLt
  exact averageByte_groupSum hgroup (partialSum_pair (fun m => (x m).toNat) g) (by simp only [groupStep]; omega)

/-- The last of four consecutive pixels (R217). -/
theorem closesGroup_four (w p g : Nat) (hg : g < p / 4) : ClosesGroup .s411 w p g (4 * g + 3) := by
  have hgroup : (4 * g + 3) / 4 = g := by omega
  refine ⟨by omega, beq_iff_eq.mpr (by omega), hgroup, fun x => ?_⟩
  have h0 := (x (4 * g)).isLt
  have h1 := (x (4 * g + 1)).isLt
  have h2 := (x (4 * g + 2)).isLt
  have h3 := (x (4 * g + 3)).isLt
  exact averageByte_groupSum hgroup (partialSum_four (fun m => (x m).toNat) g) (by simp only [groupStep]; omega)

/-- The last pixel of block `g`: its block row is `g / (w / q)` and its block column `g % (w / q)`. -/
def blockEnd (q w g : Nat) : Nat := (q * (g / (w / q)) + (q - 1)) * w + (q * (g % (w / q)) + (q - 1))

/-- The sum of a sample over block `g`. -/
def blockSum (q w g : Nat) (x : Nat → Byte) : Nat :=
  ∑ a ∈ Finset.range q, ∑ b ∈ Finset.range q, (x ((q * (g / (w / q)) + a) * w + (q * (g % (w / q)) + b))).toNat

theorem blockSum_lt (q w g : Nat) (x : Nat → Byte) (hq : 0 < q) : blockSum q w g x < 256 * (q * q) := by
  have hle : blockSum q w g x ≤ ∑ _a ∈ Finset.range q, ∑ _b ∈ Finset.range q, 255 :=
    Finset.sum_le_sum fun a _ => Finset.sum_le_sum fun b _ => Nat.le_of_lt_succ (BitVec.isLt _)
  have hpos := Nat.mul_pos hq hq
  simp only [Finset.sum_const, Finset.card_range, smul_eq_mul, ← Nat.mul_assoc] at hle
  omega

theorem blockSum_two (w g : Nat) (x : Nat → Byte) :
    blockSum 2 w g x / 4 = block2Average x w (g / (w / 2)) (g % (w / 2)) := by
  simp only [blockSum, block2Average, Finset.sum_range_succ, Finset.sum_range_zero, Nat.zero_add, Nat.add_zero,
    Nat.add_assoc]

theorem blockSum_four (w g : Nat) (x : Nat → Byte) :
    blockSum 4 w g x / 16 = block4Average x w (g / (w / 4)) (g % (w / 4)) := by
  simp only [blockSum, block4Average, sum4, Finset.sum_range_succ, Finset.sum_range_zero, Nat.zero_add, Nat.add_zero,
    Nat.add_assoc]

section Blocks
variable {q w h g : Nat}

/-- Block `g` has its column among the `w / q` columns of blocks and its row among the `h / q` rows. -/
theorem block_row_column_lt (hdw : w % q = 0) (hdh : h % q = 0) (hg : g < w * h / (q * q)) :
    g / (w / q) < h / q ∧ g % (w / q) < w / q := by
  rw [← Nat.div_mul_div_comm (Nat.dvd_of_mod_eq_zero hdw) (Nat.dvd_of_mod_eq_zero hdh)] at hg
  exact ⟨Nat.div_lt_of_lt_mul hg, Nat.mod_lt _ (Nat.pos_of_mul_pos_right (Nat.zero_lt_of_lt hg))⟩

/-- Offset `a` of block `i` lies on the side that the blocks divide. -/
theorem block_offset_lt {side i a : Nat} (hd : side % q = 0) (hi : i < side / q) (ha : a < q) :
    q * i + a < side := by
  have hside := Nat.div_add_mod side q
  have hnext := Nat.mul_le_mul_left q (show i + 1 ≤ side / q from hi)
  rw [Nat.mul_add, Nat.mul_one] at hnext
  omega

/-- `blockEnd` is at the last row and the last column of its block, inside the image (R211, R223). -/
theorem blockEnd_place (hq : 0 < q) (hdw : w % q = 0) (hdh : h % q = 0) (hg : g < w * h / (q * q)) :
    blockEnd q w g < w * h ∧ blockEnd q w g / w % q = q - 1 ∧ blockEnd q w g % w % q = q - 1 ∧
      blockIndex q w (blockEnd q w g) = g := by
  obtain ⟨hi, hj⟩ := block_row_column_lt hdw hdh hg
  have hlast : q - 1 < q := by omega
  have hcolumn := block_offset_lt hdw hj hlast
  have hrow := block_offset_lt hdh hi hlast
  obtain ⟨hdiv, hmod⟩ := pixel_row_column w (q * (g / (w / q)) + (q - 1)) _ hcolumn
  rw [← blockEnd] at hdiv hmod
  refine ⟨?_, by rw [hdiv, Nat.mul_add_mod, Nat.mod_eq_of_lt hlast],
    by rw [hmod, Nat.mul_add_mod, Nat.mod_eq_of_lt hlast], ?_⟩
  · rw [Nat.mul_comm, ← Nat.div_lt_iff_lt_mul (by omega), hdiv]
    exact hrow
  · rw [blockIndex, hdiv, hmod, Nat.mul_add_div hq, Nat.mul_add_div hq, Nat.div_eq_of_lt hlast, Nat.add_zero,
      Nat.add_zero, Nat.div_add_mod']

theorem partialSum_blockEnd (x : Nat → Byte) (hq : 0 < q) (hdw : w % q = 0) (hdh : h % q = 0)
    (hg : g < w * h / (q * q)) :
    partialSum (blockIndex q w) (fun m => (x m).toNat) g (blockEnd q w g + 1) = blockSum q w g x := by
  obtain ⟨-, hj⟩ := block_row_column_lt hdw hdh hg
  have hsum := partialSum_block q w (g / (w / q)) (g % (w / q)) (fun m => (x m).toNat) hq hdw hj
  rw [Nat.div_add_mod'] at hsum
  exact hsum

/-- The last pixel of a 2 x 2 block (R211). -/
theorem closesGroup_block2 (hdw : w % 2 = 0) (hdh : h % 2 = 0) (hg : g < w * h / 4) :
    ClosesGroup .s420 w (w * h) g (blockEnd 2 w g) := by
  obtain ⟨hlt, hrow, hcolumn, hgroup⟩ := blockEnd_place (q := 2) (by decide) hdw hdh hg
  refine ⟨hlt, by simp only [groupStep, hrow, hcolumn]; rfl, hgroup, fun x => ?_⟩
  have hbyte := averageByte_groupSum (cls := .s420) hgroup (partialSum_blockEnd x (by decide) hdw hdh hg)
    (blockSum_lt 2 w g x (by decide))
  exact hbyte.trans (blockSum_two w g x)

/-- The last pixel of a 4 x 4 block (R223). -/
theorem closesGroup_block4 (hdw : w % 4 = 0) (hdh : h % 4 = 0) (hg : g < w * h / 16) :
    ClosesGroup .s410 w (w * h) g (blockEnd 4 w g) := by
  obtain ⟨hlt, hrow, hcolumn, hgroup⟩ := blockEnd_place (q := 4) (by decide) hdw hdh hg
  refine ⟨hlt, by simp only [groupStep, hrow, hcolumn]; rfl, hgroup, fun x => ?_⟩
  have hbyte := averageByte_groupSum (cls := .s410) hgroup (partialSum_blockEnd x (by decide) hdw hdh hg)
    (blockSum_lt 4 w g x (by decide))
  exact hbyte.trans (blockSum_four w g x)

end Blocks

/-- Every chroma group of an image that fits its subsampled target is finished by one of its pixels. -/
theorem exists_closesGroup (dst : YuvTag) (w h g : Nat) (hsub : subsampling dst ≠ .s444) (hf : DimsFit dst w h)
    (hg : g < groupCount dst (w * h)) : ∃ n, ClosesGroup (subsampling dst) w (w * h) g n := by
  rw [← blocksFit_iff] at hf
  cases hs : subsampling dst <;> simp only [blocksFit, groupCount, hs, Bool.and_eq_true, beq_iff_eq] at hf hg
  case s444 => exact absurd hs hsub
  case s422 => exact ⟨_, closesGroup_pair w _ g hg⟩
  case s411 => exact ⟨_, closesGroup_four w _ g hg⟩
  case s420 =>
    obtain ⟨hdw, hdh⟩ := hf
    exact ⟨_, closesGroup_block2 hdw hdh hg⟩
  case s410 =>
    obtain ⟨hdw, hdh⟩ := hf
    exact ⟨_, closesGroup_block4 hdw hdh hg⟩

/-! ### The finished run -/

section Run
variable (dst : YuvTag) (w h d : Nat) (x : Nat → Yuv) (t : WriterState)

theorem writerRun_luma (hf : DimsFit dst w h) (hd : w * h % yuvDivisor dst = 0) (n : Nat) (hn : n < w * h) :
    memRead (writerRun dst w (w * h) d x (w * h) t).mem (d + lumaOffset dst n) = (x n).y := by
  by_cases hfull : subsampling dst = .s444
  · obtain ⟨-, -, -, hbytes⟩ := writerRun_full dst w (w * h) d x (w * h) t hfull le_rfl
    obtain ⟨hluma, -, -⟩ := hbytes n hn
    exact hluma
  · obtain ⟨-, -, -, hluma, -⟩ := writerRun_subsampled dst w (w * h) d x (w * h) t hfull hd
      (groupLaws dst w h hf hfull) (fun m hm _ => group_lt dst w h m hf hd hm) le_rfl
    exact hluma n hn

/-- Both chroma bytes of every group: for 4:4:4 the pixel's own samples, else what the pixel that finishes the group
emits (R246). -/
theorem writerRun_chroma (hf : DimsFit dst w h) (hd : w * h % yuvDivisor dst = 0) (g : Nat)
    (hg : g < groupCount dst (w * h)) :
    (memRead (writerRun dst w (w * h) d x (w * h) t).mem (d + chromaUOffset dst (w * h) g)).toNat =
      chromaAverage (subsampling dst) (fun n => (x n).u) w g ∧
    (memRead (writerRun dst w (w * h) d x (w * h) t).mem (d + chromaVOffset dst (w * h) g)).toNat =
      chromaAverage (subsampling dst) (fun n => (x n).v) w g := by
  by_cases hfull : subsampling dst = .s444
  · obtain ⟨-, -, -, hbytes⟩ := writerRun_full dst w (w * h) d x (w * h) t hfull le_rfl
    simp only [groupCount, hfull] at hg
    obtain ⟨-, hu, hv⟩ := hbytes g hg
    rw [hu, hv, hfull]
    exact ⟨rfl, rfl⟩
  · obtain ⟨-, -, -, -, hfinished⟩ := writerRun_subsampled dst w (w * h) d x (w * h) t hfull hd
      (groupLaws dst w h hf hfull) (fun m hm _ => group_lt dst w h m hf hd hm) le_rfl
    obtain ⟨n, hn⟩ := exists_closesGroup dst w h g hfull hf hg
    obtain ⟨hu, hv⟩ := hfinished n hn.lt hn.last
    rw [hn.group] at hu hv
    rw [hu, hv]
    exact ⟨hn.average _, hn.average _⟩

end Run

/-! ### What a CONVERT leaves -/

/-- What a completed CONVERT leaves, for any target: the frame, CAN_PTR, the bytes outside the destination, and each
sample of the destination at its place (R190, R240). -/
structure Converted (s t : State) (src : RgbTag) (dst : YuvTag) : Prop where
  frame : CompletedFrame s t (.convert src dst)
  canPtr : t.canPtr = s.canPtr
  outside : SameOutside s.mem t.mem s.dstAddr.toNat (yuvBytes dst s.pixels)
  luma : ∀ n, n < s.pixels → memRead t.mem (s.dstAddr.toNat + lumaOffset dst n) = s.yp src n
  chromaU : ∀ g, g < groupCount dst s.pixels →
    (memRead t.mem (s.dstAddr.toNat + chromaUOffset dst s.pixels g)).toNat =
      chromaAverage (subsampling dst) (s.up src) s.width.toNat g
  chromaV : ∀ g, g < groupCount dst s.pixels →
    (memRead t.mem (s.dstAddr.toNat + chromaVOffset dst s.pixels g)).toNat =
      chromaAverage (subsampling dst) (s.vp src) s.width.toNat g

theorem perform_convert_converted {s : State} {src : RgbTag} {dst : YuvTag} (h : ConvertReady s src dst) :
    Converted s (s.perform (.convert src dst)) src dst := by
  obtain ⟨hframe, hptr, hmem, -, -⟩ := perform_convert s src dst h
  have hchroma := writerRun_chroma dst s.width.toNat s.height.toNat s.dstAddr.toNat (s.yuvAt src)
    ⟨s.mem, s.accU, s.accV⟩ h.dims h.divides
  refine ⟨hframe, hptr, perform_convert_sameOutside s src dst h.idle, ?luma, ?chromaU, ?chromaV⟩
  case luma =>
    rw [hmem]
    exact writerRun_luma dst _ _ _ _ _ h.dims h.divides
  case chromaU =>
    rw [hmem]
    exact fun g hg => (hchroma g hg).1
  case chromaV =>
    rw [hmem]
    exact fun g hg => (hchroma g hg).2

/-- Settles O40: the run is that of the constant sample, and an average of equal samples is the sample. -/
theorem uniformImageKeepsItsColour : Obligations.UniformImageKeepsItsColour := by
  intro src dst s x hready huniform
  obtain ⟨-, -, hmem, -, -⟩ := perform_convert s src dst hready
  rw [writerRun_congr _ _ _ _ _ (fun _ => x) _ _ huniform] at hmem
  refine ⟨_, exec_instr _ s, ?luma, fun g hg => ?chroma⟩
  case luma =>
    rw [hmem]
    exact writerRun_luma dst _ _ _ _ _ hready.dims hready.divides
  case chroma =>
    obtain ⟨hu, hv⟩ := writerRun_chroma dst _ _ s.dstAddr.toNat (fun _ => x) ⟨s.mem, s.accU, s.accV⟩ hready.dims
      hready.divides g hg
    rw [chromaAverage_const] at hu hv
    rw [hmem]
    exact ⟨BitVec.eq_of_toNat_eq hu, BitVec.eq_of_toNat_eq hv⟩

end Sys2Proof.Machine
end

section
/-! PROOFS. Family 43_writers_444_422.md, the byte maps of the seven targets: 4:4:4 semi-planar (R191, R192), 4:2:2 packed
(R194 to R197) and 4:2:2 planar (R198). -/

namespace Sys2Proof.Machine

/-! ### 4:4:4 -/

/-- A CONVERT to a 4:4:4 target uses no accumulator (R191). -/
theorem perform_convert_full_accumulators {s : State} {src : RgbTag} {dst : YuvTag} (h : ConvertReady s src dst)
    (hfull : subsampling dst = .s444) :
    (s.perform (.convert src dst)).accU = s.accU ∧ (s.perform (.convert src dst)).accV = s.accV := by
  obtain ⟨-, -, -, hu, hv⟩ := perform_convert s src dst h
  obtain ⟨hku, hkv, -, -⟩ := writerRun_full dst s.width.toNat s.pixels s.dstAddr.toNat (s.yuvAt src) s.pixels
    ⟨s.mem, s.accU, s.accV⟩ hfull le_rfl
  exact ⟨hu.trans hku, hv.trans hkv⟩

/-- Each pixel of a 4:4:4 target is its own chroma group. -/
theorem Converted.full_chroma {s t : State} {src : RgbTag} {dst : YuvTag} (h : Converted s t src dst)
    (hfull : subsampling dst = .s444) (n : Nat) (hn : n < s.pixels) :
    memRead t.mem (s.dstAddr.toNat + chromaUOffset dst s.pixels n) = s.up src n ∧
    memRead t.mem (s.dstAddr.toNat + chromaVOffset dst s.pixels n) = s.vp src n := by
  have hgroup : n < groupCount dst s.pixels := by simpa only [groupCount, hfull] using hn
  have hu := h.chromaU n hgroup
  have hv := h.chromaV n hgroup
  rw [hfull] at hu hv
  exact ⟨BitVec.eq_of_toNat_eq hu, BitVec.eq_of_toNat_eq hv⟩

/-- Settles O29: each pixel's own chroma, at the places of NV24 and of NV42. -/
theorem convertTo444ByteMap : Obligations.ConvertTo444ByteMap := by
  intro src dst s hdst hready
  have hconv := perform_convert_converted hready
  simp only [List.mem_cons, List.not_mem_nil, or_false] at hdst
  have hfull : subsampling dst = .s444 := by rcases hdst with rfl | rfl <;> rfl
  obtain ⟨haccU, haccV⟩ := perform_convert_full_accumulators hready hfull
  have hsize : yuvBytes dst s.pixels = 3 * s.pixels := by rcases hdst with rfl | rfl <;> rfl
  refine ⟨_, exec_instr _ s, hconv.frame, hconv.canPtr, haccU, haccV, hsize ▸ hconv.outside, fun n hn => ?_⟩
  have hluma := hconv.luma n hn
  obtain ⟨hu, hv⟩ := hconv.full_chroma hfull n hn
  rcases hdst with rfl | rfl <;> simp only [lumaOffset, chromaUOffset, chromaVOffset, ← Nat.add_assoc] at hluma hu hv
  case inl => exact ⟨hluma, hu, hv⟩
  case inr => exact ⟨hluma, hv, hu⟩

/-! ### 4:2:2 -/

section Pairs
variable {s t : State} {src : RgbTag} {dst : YuvTag}

/-- Each chroma group of a 4:2:2 target is a pair (R193). -/
theorem Converted.pair_chroma (h : Converted s t src dst) (hpair : subsampling dst = .s422) (k : Nat)
    (hk : k < s.pixels / 2) :
    (memRead t.mem (s.dstAddr.toNat + chromaUOffset dst s.pixels k)).toNat = pairAverage (s.up src) k ∧
    (memRead t.mem (s.dstAddr.toNat + chromaVOffset dst s.pixels k)).toNat = pairAverage (s.vp src) k := by
  have hgroup : k < groupCount dst s.pixels := by simpa only [groupCount, hpair] using hk
  have hu := h.chromaU k hgroup
  have hv := h.chromaV k hgroup
  rw [hpair] at hu hv
  exact ⟨hu, hv⟩

/-- The packed 4:2:2 targets: four bytes for each pair of pixels (R194 to R197). -/
def packedPairs : List YuvTag := [.yuy2, .yvyu, .uyvy, .vyuy]

theorem subsampling_of_packed (hdst : dst ∈ packedPairs) : subsampling dst = .s422 := by
  revert dst
  decide

theorem yuvBytes_of_packed (hdst : dst ∈ packedPairs) (p : Nat) : yuvBytes dst p = 2 * p := by
  simp only [packedPairs, List.mem_cons, List.not_mem_nil, or_false] at hdst
  rcases hdst with rfl | rfl | rfl | rfl <;> rfl

/-- Pair `k` is laid out from `4k` as pair 0 is from 0. -/
theorem packed_offsets (hdst : dst ∈ packedPairs) (p k : Nat) :
    lumaOffset dst (2 * k) = 4 * k + lumaOffset dst 0 ∧ lumaOffset dst (2 * k + 1) = 4 * k + lumaOffset dst 1 ∧
    chromaUOffset dst p k = 4 * k + chromaUOffset dst p 0 ∧ chromaVOffset dst p k = 4 * k + chromaVOffset dst p 0 := by
  simp only [packedPairs, List.mem_cons, List.not_mem_nil, or_false] at hdst
  rcases hdst with rfl | rfl | rfl | rfl <;>
    simp only [lumaOffset, chromaUOffset, chromaVOffset, and_true, true_and] <;> omega

/-- The four bytes of pair `k`, each at its place in the pair. -/
theorem Converted.packed_pair (h : Converted s t src dst) (hdst : dst ∈ packedPairs) (k : Nat)
    (hk : k < s.pixels / 2) :
    (memRead t.mem (s.dstAddr.toNat + 4 * k + lumaOffset dst 0)).toNat = (s.yp src (2 * k)).toNat ∧
    (memRead t.mem (s.dstAddr.toNat + 4 * k + lumaOffset dst 1)).toNat = (s.yp src (2 * k + 1)).toNat ∧
    (memRead t.mem (s.dstAddr.toNat + 4 * k + chromaUOffset dst s.pixels 0)).toNat = pairAverage (s.up src) k ∧
    (memRead t.mem (s.dstAddr.toNat + 4 * k + chromaVOffset dst s.pixels 0)).toNat = pairAverage (s.vp src) k := by
  obtain ⟨hplace0, hplace1, hplaceU, hplaceV⟩ := packed_offsets hdst s.pixels k
  have hluma0 := h.luma (2 * k) (by omega)
  have hluma1 := h.luma (2 * k + 1) (by omega)
  obtain ⟨hu, hv⟩ := h.pair_chroma (subsampling_of_packed hdst) k hk
  rw [hplace0, ← Nat.add_assoc] at hluma0
  rw [hplace1, ← Nat.add_assoc] at hluma1
  rw [hplaceU, ← Nat.add_assoc] at hu
  rw [hplaceV, ← Nat.add_assoc] at hv
  exact ⟨congrArg _ hluma0, congrArg _ hluma1, hu, hv⟩

end Pairs

/-- `0x30000`, the target's tag in bits 12:8, the source's in 4:0 (R90, R91, R93). -/
theorem convert_word_toNat (src : RgbTag) (dst : YuvTag) :
    (encode (Command.convert src dst).instr).toNat = 0x30000 + 256 * dst.number.toNat + src.number.toNat := by
  obtain ⟨-, -, -, hconvert⟩ := commandWordsAsNumbers
  exact hconvert src dst

/-- Settles O30: the four bytes of a pair by `Converted.packed_pair`, at the places of YUY2 and of UYVY. -/
theorem convertToYuy2AndUyvy : Obligations.ConvertToYuy2AndUyvy := by
  refine ⟨fun src => by simp only [List.map, convert_word_toNat]; rfl, fun src dst s hdst hready => ?_⟩
  have hpacked : dst ∈ packedPairs := (show [YuvTag.yuy2, .uyvy] ⊆ packedPairs by decide) hdst
  have hconv := perform_convert_converted hready
  refine ⟨_, exec_instr _ s, hconv.frame, hconv.canPtr, yuvBytes_of_packed hpacked _ ▸ hconv.outside, fun k hk => ?_⟩
  obtain ⟨hy0, hy1, hu, hv⟩ := hconv.packed_pair hpacked k hk
  simp only [List.mem_cons, List.not_mem_nil, or_false] at hdst
  rcases hdst with rfl | rfl
  case inl => exact ⟨fun _ => ⟨hy0, hu, hy1, hv⟩, nofun⟩
  case inr => exact ⟨nofun, fun _ => ⟨hu, hy0, hv, hy1⟩⟩

/-- Settles O31: the four bytes of a pair by `Converted.packed_pair`, at the places of YVYU and of VYUY. -/
theorem convertToYvyuAndVyuy : Obligations.ConvertToYvyuAndVyuy := by
  refine ⟨fun src => by simp only [List.map, convert_word_toNat]; rfl, fun src dst s hdst hready => ?_⟩
  have hpacked : dst ∈ packedPairs := (show [YuvTag.yvyu, .vyuy] ⊆ packedPairs by decide) hdst
  have hconv := perform_convert_converted hready
  refine ⟨_, exec_instr _ s, hconv.frame, hconv.canPtr, yuvBytes_of_packed hpacked _ ▸ hconv.outside, fun k hk => ?_⟩
  obtain ⟨hy0, hy1, hu, hv⟩ := hconv.packed_pair hpacked k hk
  simp only [List.mem_cons, List.not_mem_nil, or_false] at hdst
  rcases hdst with rfl | rfl
  case inl => exact ⟨fun _ => ⟨hy0, hv, hy1, hu⟩, nofun⟩
  case inr => exact ⟨nofun, fun _ => ⟨hv, hy0, hu, hy1⟩⟩

/-- Settles O32: the luma plane, and each pair's averages at the places of the U and V planes. -/
theorem convertToPlanar422ByteMap : Obligations.ConvertToPlanar422ByteMap := by
  intro src s hready
  have hconv := perform_convert_converted hready
  refine ⟨_, exec_instr _ s, hconv.frame, hconv.canPtr, hconv.outside, hconv.luma, fun k hk => ?_⟩
  have hpair := hconv.pair_chroma rfl k hk
  simp only [chromaUOffset, chromaVOffset, ← Nat.add_assoc] at hpair
  exact hpair

end Sys2Proof.Machine
end

section
/-! PROOFS. Family 44_writers_420_411_410.md, the byte maps of the eight targets: 4:2:0 planar and semi-planar (R212 to
R215), 4:1:1 (R218, R219) and 4:1:0 (R224, R225). -/

namespace Sys2Proof.Machine

/-! ### Chroma groups by their block or their four pixels -/

/-- Block `(i, j)` of a whole number of `q` by `q` blocks is one of the `w * h / q ^ 2` in row-major order. -/
theorem block_row_major_lt {q w h i j : Nat} (hdw : w % q = 0) (hdh : h % q = 0) (hi : i < h / q) (hj : j < w / q) :
    i * (w / q) + j < w * h / (q * q) := by
  rw [← Nat.div_mul_div_comm (Nat.dvd_of_mod_eq_zero hdw) (Nat.dvd_of_mod_eq_zero hdh)]
  calc i * (w / q) + j < (i + 1) * (w / q) := by rw [Nat.add_mul, Nat.one_mul]; exact Nat.add_lt_add_left hj _
    _ ≤ h / q * (w / q) := Nat.mul_le_mul_right _ hi
    _ = w / q * (h / q) := Nat.mul_comm _ _

theorem chromaAverage_block2 (x : Nat → Byte) {w i j : Nat} (hj : j < w / 2) :
    chromaAverage .s420 x w (i * (w / 2) + j) = block2Average x w i j := by
  obtain ⟨hrow, hcolumn⟩ := pixel_row_column (w / 2) i j hj
  rw [chromaAverage, hrow, hcolumn]

theorem chromaAverage_block4 (x : Nat → Byte) {w i j : Nat} (hj : j < w / 4) :
    chromaAverage .s410 x w (i * (w / 4) + j) = block4Average x w i j := by
  obtain ⟨hrow, hcolumn⟩ := pixel_row_column (w / 4) i j hj
  rw [chromaAverage, hrow, hcolumn]

section Groups
variable {s t : State} {src : RgbTag} {dst : YuvTag}

/-- Where the chroma groups are the `q` by `q` blocks, block `(i, j)` has a group's index, so both its averages are
stored. -/
theorem Converted.block_chroma (h : Converted s t src dst) {q : Nat}
    (hcount : groupCount dst s.pixels = s.pixels / (q * q))
    (hdims : s.width.toNat % q = 0 ∧ s.height.toNat % q = 0) {i j : Nat} (hi : i < s.height.toNat / q)
    (hj : j < s.width.toNat / q) :
    (memRead t.mem (s.dstAddr.toNat + chromaUOffset dst s.pixels (i * (s.width.toNat / q) + j))).toNat =
      chromaAverage (subsampling dst) (s.up src) s.width.toNat (i * (s.width.toNat / q) + j) ∧
    (memRead t.mem (s.dstAddr.toNat + chromaVOffset dst s.pixels (i * (s.width.toNat / q) + j))).toNat =
      chromaAverage (subsampling dst) (s.vp src) s.width.toNat (i * (s.width.toNat / q) + j) := by
  have hgroup := block_row_major_lt hdims.left hdims.right hi hj
  rw [← State.pixels, ← hcount] at hgroup
  exact ⟨h.chromaU _ hgroup, h.chromaV _ hgroup⟩

/-- Each chroma group of a 4:2:0 target is a 2 x 2 block (R211). -/
theorem Converted.block2_chroma (h : Converted s t src dst) (hclass : subsampling dst = .s420)
    (hdims : s.width.toNat % 2 = 0 ∧ s.height.toNat % 2 = 0) {i j : Nat} (hi : i < s.height.toNat / 2)
    (hj : j < s.width.toNat / 2) :
    (memRead t.mem (s.dstAddr.toNat + chromaUOffset dst s.pixels (i * (s.width.toNat / 2) + j))).toNat =
      block2Average (s.up src) s.width.toNat i j ∧
    (memRead t.mem (s.dstAddr.toNat + chromaVOffset dst s.pixels (i * (s.width.toNat / 2) + j))).toNat =
      block2Average (s.vp src) s.width.toNat i j := by
  have hblock := h.block_chroma (q := 2) (by simp only [groupCount, hclass]) hdims hi hj
  rwa [hclass, chromaAverage_block2 _ hj, chromaAverage_block2 _ hj] at hblock

/-- Each chroma group of a 4:1:0 target is a 4 x 4 block (R223). -/
theorem Converted.block4_chroma (h : Converted s t src dst) (hclass : subsampling dst = .s410)
    (hdims : s.width.toNat % 4 = 0 ∧ s.height.toNat % 4 = 0) {i j : Nat} (hi : i < s.height.toNat / 4)
    (hj : j < s.width.toNat / 4) :
    (memRead t.mem (s.dstAddr.toNat + chromaUOffset dst s.pixels (i * (s.width.toNat / 4) + j))).toNat =
      block4Average (s.up src) s.width.toNat i j ∧
    (memRead t.mem (s.dstAddr.toNat + chromaVOffset dst s.pixels (i * (s.width.toNat / 4) + j))).toNat =
      block4Average (s.vp src) s.width.toNat i j := by
  have hblock := h.block_chroma (q := 4) (by simp only [groupCount, hclass]) hdims hi hj
  rwa [hclass, chromaAverage_block4 _ hj, chromaAverage_block4 _ hj] at hblock

/-- Each chroma group of a 4:1:1 target is four consecutive pixels (R217). -/
theorem Converted.four_chroma (h : Converted s t src dst) (hclass : subsampling dst = .s411) (g : Nat)
    (hg : g < s.pixels / 4) :
    (memRead t.mem (s.dstAddr.toNat + chromaUOffset dst s.pixels g)).toNat = fourAverage (s.up src) g ∧
    (memRead t.mem (s.dstAddr.toNat + chromaVOffset dst s.pixels g)).toNat = fourAverage (s.vp src) g := by
  have hgroup : g < groupCount dst s.pixels := by simpa only [groupCount, hclass] using hg
  have hu := h.chromaU g hgroup
  have hv := h.chromaV g hgroup
  rw [hclass] at hu hv
  exact ⟨hu, hv⟩

end Groups

/-! ### 4:2:0 -/

/-- Settles O33: the luma plane, and each block's averages at the places of the U and V planes, which YV12 and YU12
exchange. -/
theorem convertToPlanar420ByteMap : Obligations.ConvertToPlanar420ByteMap := by
  refine ⟨fun src => by simp only [List.map, convert_word_toNat]; rfl, fun src dst s hdst hready => ?_⟩
  have hconv := perform_convert_converted hready
  simp only [List.mem_cons, List.not_mem_nil, or_false] at hdst
  rcases hdst with rfl | rfl <;>
    refine ⟨_, exec_instr _ s, hconv.frame, hconv.canPtr, hconv.outside, hconv.luma, fun i j hi hj => ?_⟩
  case inl =>
    obtain ⟨hu, hv⟩ := hconv.block2_chroma rfl hready.dims hi hj
    exact ⟨fun _ => ⟨hv, hu⟩, nofun⟩
  case inr =>
    obtain ⟨hu, hv⟩ := hconv.block2_chroma rfl hready.dims hi hj
    exact ⟨nofun, fun _ => ⟨hu, hv⟩⟩

/-- Settles O34: the luma plane, and each block's averages at the places of its pair, which NV12 and NV21 exchange. -/
theorem convertToSemiPlanar420ByteMap : Obligations.ConvertToSemiPlanar420ByteMap := by
  refine ⟨fun src => by simp only [List.map, convert_word_toNat]; rfl, fun src dst s hdst hready => ?_⟩
  have hconv := perform_convert_converted hready
  simp only [List.mem_cons, List.not_mem_nil, or_false] at hdst
  rcases hdst with rfl | rfl <;>
    refine ⟨_, exec_instr _ s, hconv.frame, hconv.canPtr, hconv.outside, hconv.luma, fun i j hi hj => ?_⟩
  case inl =>
    obtain ⟨hu, hv⟩ := hconv.block2_chroma rfl hready.dims hi hj
    exact ⟨fun _ => ⟨hu, hv⟩, nofun⟩
  case inr =>
    obtain ⟨hu, hv⟩ := hconv.block2_chroma rfl hready.dims hi hj
    exact ⟨nofun, fun _ => ⟨hv, hu⟩⟩

/-! ### 4:1:1 -/

section MacroBlocks
variable {s t : State} {src : RgbTag}

/-- Macro-block `m` of Y41P is laid out from `12m` as macro-block 0 is from 0: its eight pixels (R218). -/
theorem lumaOffset_y41p_block (m : Nat) {j : Nat} (hj : j < 8) :
    lumaOffset .y41p (8 * m + j) = 12 * m + lumaOffset .y41p j := by
  have hblock : (8 * m + j) / 8 = m := by omega
  have hplace : (8 * m + j) % 8 = j := by omega
  have hblock0 : j / 8 = 0 := by omega
  have hplace0 : j % 8 = j := by omega
  simp only [lumaOffset, hblock, hplace, hblock0, hplace0]
  split <;> omega

/-- Macro-block `m` of Y41P is laid out from `12m` as macro-block 0 is from 0: its two chroma groups (R218). -/
theorem chromaOffset_y41p_block (p m : Nat) {k : Nat} (hk : k < 2) :
    chromaUOffset .y41p p (2 * m + k) = 12 * m + chromaUOffset .y41p p k ∧
    chromaVOffset .y41p p (2 * m + k) = 12 * m + chromaVOffset .y41p p k := by
  have hblock : (2 * m + k) / 2 = m := by omega
  have hplace : (2 * m + k) % 2 = k := by omega
  have hblock0 : k / 2 = 0 := by omega
  have hplace0 : k % 2 = k := by omega
  simp only [chromaUOffset, chromaVOffset, hblock, hplace, hblock0, hplace0]
  omega

/-- The luma bytes of macro-block `m`, each at its place in the macro-block (R218). -/
theorem Converted.y41p_luma (h : Converted s t src .y41p) {m : Nat} (hm : m < s.pixels / 8) {j : Nat} (hj : j < 8) :
    (memRead t.mem (s.dstAddr.toNat + (12 * m + lumaOffset .y41p j))).toNat = (s.yp src (8 * m + j)).toNat := by
  rw [← lumaOffset_y41p_block m hj, h.luma _ (by omega)]

/-- The chroma bytes of macro-block `m`, each at its place in the macro-block (R218). -/
theorem Converted.y41p_chroma (h : Converted s t src .y41p) {m : Nat} (hm : m < s.pixels / 8) {k : Nat} (hk : k < 2) :
    (memRead t.mem (s.dstAddr.toNat + (12 * m + chromaUOffset .y41p s.pixels k))).toNat =
      fourAverage (s.up src) (2 * m + k) ∧
    (memRead t.mem (s.dstAddr.toNat + (12 * m + chromaVOffset .y41p s.pixels k))).toNat =
      fourAverage (s.vp src) (2 * m + k) := by
  obtain ⟨hplaceU, hplaceV⟩ := chromaOffset_y41p_block s.pixels m hk
  rw [← hplaceU, ← hplaceV]
  exact h.four_chroma rfl _ (by omega)

end MacroBlocks

/-- Settles O35: Y41P's macro-block is its eight luma and four chroma bytes in the order of R218; P411 is three
planes. -/
theorem convertTo411ByteMap : Obligations.ConvertTo411ByteMap := by
  intro src dst s hdst hready
  have hconv := perform_convert_converted hready
  simp only [List.mem_cons, List.not_mem_nil, or_false] at hdst
  rcases hdst with rfl | rfl <;> refine ⟨_, exec_instr _ s, hconv.frame, hconv.canPtr, hconv.outside, ?_⟩
  case inl =>
    refine ⟨fun _ m hm => ?_, nofun⟩
    have hy {j : Nat} (hj : j < 8) := hconv.y41p_luma hm hj
    obtain ⟨hu0, hv0⟩ := hconv.y41p_chroma hm (k := 0) (by decide)
    obtain ⟨hu1, hv1⟩ := hconv.y41p_chroma hm (k := 1) (by decide)
    exact ⟨hu0, hy (j := 0) (by decide), hv0, hy (j := 1) (by decide), hu1, hy (j := 2) (by decide), hv1,
      hy (j := 3) (by decide), hy (j := 4) (by decide), hy (j := 5) (by decide), hy (j := 6) (by decide),
      hy (j := 7) (by decide)⟩
  case inr =>
    refine ⟨nofun, fun _ => ⟨fun n hn => congrArg _ (hconv.luma n hn), fun g hg => ?_⟩⟩
    exact hconv.four_chroma rfl g hg

/-! ### 4:1:0 -/

/-- Settles O36: the luma plane, and each block's averages at the places of the U and V planes, which YVU9 and YUV9
exchange. -/
theorem convertTo410ByteMap : Obligations.ConvertTo410ByteMap := by
  refine ⟨fun src => by simp only [List.map, convert_word_toNat]; rfl, fun src dst s hdst hready => ?_⟩
  have hconv := perform_convert_converted hready
  simp only [List.mem_cons, List.not_mem_nil, or_false] at hdst
  rcases hdst with rfl | rfl <;>
    refine ⟨_, exec_instr _ s, hconv.frame, hconv.canPtr, hconv.outside, hconv.luma, fun i j hi hj => ?_⟩
  case inl =>
    obtain ⟨hu, hv⟩ := hconv.block4_chroma rfl hready.dims hi hj
    exact ⟨fun _ => ⟨hv, hu⟩, nofun⟩
  case inr =>
    obtain ⟨hu, hv⟩ := hconv.block4_chroma rfl hready.dims hi hj
    exact ⟨nofun, fun _ => ⟨hu, hv⟩⟩

end Sys2Proof.Machine
end

section
/-! PROOFS. Family 45_dispatcher.md, the commands without pixels and the end of a run: NOP (R251), empty images (R250)
and the number of moves a running command needs (R248). -/

namespace Sys2Proof.Machine

/-! ### NOP (R251) -/

theorem exec_nop (s : State) (hidle : s.status.busy = false) :
    exec .nop s = .next { s with latched := s.latchOf 0, status := .doneOnly } := by
  have hword : Command.nop.word = 0 := by rfl
  have hbegin : s.begin .nop = { s with latched := s.latchOf 0, status := .doneOnly } := by
    rw [State.begin, hword]
    rfl
  rw [exec_eq, Instr.command, State.perform, if_neg (by simp [hidle]), hbegin]
  rfl

/-- NOP uses no format field: steps 1 to 3 of R92 leave no bit of a word of operation 0 but those of OP. -/
theorem eq_zero_of_wordLegal (k : Word) (hop : k.toNat / 2 ^ 16 % 16 = 0)
    (h : (Fields.ofWord k).wordLegal = true) : k = 0 := by
  simp only [wordLegal_iff, ofWord_z3_toNat, ofWord_op_toNat, ofWord_z2_toNat, ofWord_fb_toNat, ofWord_z1_toNat,
    ofWord_fa_toNat] at h
  apply BitVec.eq_of_toNat_eq
  change k.toNat = 0
  omega

/-- Settles O17: `exec_nop`; any other word of operation 0 fails steps 1 to 3 of R92. -/
theorem nopSetsDone : Obligations.NopSetsDone := by
  refine ⟨by rfl, exec_nop, fun k hk hop => ?_⟩
  obtain ⟨e, he, hcode⟩ := decode_of_not_wordLegal (Fields.ofWord k) (mt (eq_zero_of_wordLegal k hop) hk)
  exact ⟨e, decode_of_fields_error he, hcode⟩

/-! ### A run ends (R248) -/

/-- Settles O45: those moves are the rest of the run, and completion clears BUSY. -/
theorem runningCommandCompletes : Obligations.RunningCommandCompletes := by
  intro s c hbusy hc
  rw [engineSteps_eq_runToEnd _ s c hbusy hc rfl]
  exact finish_idle _ c

/-! ### Empty images (R250) -/

theorem requiredBytes_zero (g : Tag) : requiredBytes g 0 = 0 :=
  Nat.le_zero.mp (requiredBytes_le_four_mul g 0)

theorem rgbBytes_zero (src : RgbTag) : rgbBytes src 0 = 0 := requiredBytes_zero (.rgb src)

theorem yuvBytes_zero (dst : YuvTag) : yuvBytes dst 0 = 0 := requiredBytes_zero (.yuv dst)

/-- A CONVERT whose L is not its target's size fails step 6 of R263 (R266). -/
theorem issueCheck_convert_eSize (s : State) (src : RgbTag) (dst : YuvTag) (k : Word)
    (hpair : (src, dst) ∈ s.cfg.supportedPairs) (hdivides : s.pixels % yuvDivisor dst = 0)
    (hdims : DimsFit dst s.width.toNat s.height.toNat) (hsize : s.dstLen.toNat ≠ yuvBytes dst s.pixels) :
    issueCheck (.convert src dst) s.cfg (s.latchOf k) = some .eSize := by
  have hblocks : blocksFit dst (s.latchOf k).w.toNat (s.latchOf k).h.toNat = true := (blocksFit_iff _ _ _).mpr hdims
  have hlen : (s.latchOf k).l.toNat ≠ yuvBytes dst s.pixels := hsize
  simp [issueCheck, hpair, hblocks, hlen, hdivides]

section Empty
variable {s : State} (hidle : s.status.busy = false) (hempty : s.pixels = 0)
include hidle hempty

theorem exec_reqbytes_empty (g : Tag) :
    ∃ t, exec (Command.reqbytes g).instr s = .next t ∧ t.status = .doneOnly ∧ t.result = 0 := by
  have hdivides : s.pixels % divisor g = 0 := by rw [hempty, Nat.zero_mod]
  refine ⟨_, exec_reqbytes_of_divides s g hidle hdivides, rfl, ?_⟩
  rw [hempty, requiredBytes_zero]
  rfl

theorem normalizeReady_empty (src : RgbTag) : NormalizeReady s src where
  idle := hidle
  source := .inl (by rw [hempty, rgbBytes_zero])
  canonical := .inl (by rw [hempty])
  apart := .inl (by rw [hempty, rgbBytes_zero])

/-- A NORMALIZE has no pixel to store, and still names where the canonical array is (R156). -/
theorem exec_normalize_empty (src : RgbTag) :
    ∃ t, exec (Command.normalize src).instr s = .next t ∧ t.status = .doneOnly ∧ t.mem = s.mem ∧
      t.canPtr = if src = .rgb888 then s.srcAddr else s.canAddr := by
  have hready := normalizeReady_empty hidle hempty src
  refine ⟨_, exec_instr _ s, ?_⟩
  by_cases hsrc : src = .rgb888
  · subst hsrc
    obtain ⟨hptr, hmem, -, -, hframe⟩ := perform_normalize_rgb888 s hidle hready.source
    exact ⟨hframe.status, hmem, hptr⟩
  · obtain ⟨hptr, hmem, -, -, hframe⟩ := perform_normalize_packed s src hsrc hready
    rw [hempty] at hmem
    exact ⟨hframe.status, hmem, by rw [if_neg hsrc, hptr]⟩

variable {src : RgbTag} {dst : YuvTag} (hpair : (src, dst) ∈ s.cfg.supportedPairs)
  (hdims : DimsFit dst s.width.toNat s.height.toNat)
include hpair hdims

theorem convertReady_empty (hlen : s.dstLen = 0) : ConvertReady s src dst where
  idle := hidle
  supported := hpair
  divides := by rw [hempty, Nat.zero_mod]
  dims := hdims
  size := by rw [hempty, yuvBytes_zero, hlen]; rfl
  source := .inl (by rw [hempty, rgbBytes_zero])
  destination := .inl (by rw [hempty, yuvBytes_zero])
  apart := .inl (by rw [hempty, rgbBytes_zero])

/-- A CONVERT of no pixels is a run of the writer over none. -/
theorem exec_convert_empty (hlen : s.dstLen = 0) :
    ∃ t, exec (Command.convert src dst).instr s = .next t ∧ t.status = .doneOnly ∧ t.mem = s.mem := by
  obtain ⟨hframe, -, hmem, -, -⟩ := perform_convert s src dst (convertReady_empty hidle hempty hpair hdims hlen)
  rw [hempty] at hmem
  exact ⟨_, exec_instr _ s, hframe.status, hmem⟩

/-- The size of an empty destination is 0, so any other L is refused (R250, R266). -/
theorem exec_convert_empty_refused (hlen : s.dstLen ≠ 0) :
    ∃ t, exec (Command.convert src dst).instr s = .next t ∧ t.status = .errOnly 4 ∧ t.mem = s.mem := by
  have hsize : s.dstLen.toNat ≠ yuvBytes dst s.pixels := by
    rw [hempty, yuvBytes_zero]
    exact fun hzero => hlen (BitVec.eq_of_toNat_eq hzero)
  have hcheck := issueCheck_convert_eSize s src dst (Command.convert src dst).word hpair
    (by rw [hempty, Nat.zero_mod]) hdims hsize
  exact ⟨_, exec_eq_refusedWith s _ _ hidle hcheck, rfl, rfl⟩

end Empty

/-- Settles O39: with W or H 0 there is no pixel; the mixed case is a CONVERT refused for its dimensions. -/
theorem emptyImage : Obligations.EmptyImage := by
  intro s hidle hzero
  have hempty : s.pixels = 0 := by
    rcases hzero with h | h <;> simp [State.pixels, h]
  refine ⟨exec_reqbytes_empty hidle hempty, exec_normalize_empty hidle hempty, fun src dst hpair =>
    ⟨exec_convert_empty hidle hempty hpair, exec_convert_empty_refused hidle hempty hpair, fun hdims => ?_⟩⟩
  exact ⟨_, exec_convert_of_not_dimsFit s src dst hidle hpair hdims, rfl, rfl⟩

end Sys2Proof.Machine
end

section
/-! PROOFS. Family 45_dispatcher.md, noninterference: what a command leaves is a function of its word, the latched
operands and the bytes of its source range (R249, R66). -/

namespace Sys2Proof.Machine

/-! ### The bytes of a write set -/

/-- A byte of the canonical array comes from its pixel alone, whatever the memory held. -/
theorem memRead_storePixels_congr (x y : Nat → Pixel) (c k a : Nat) (m m' : List Host.Cell)
    (hxy : ∀ n, n < k → y n = x n) (hlow : c ≤ a) (hhigh : a < c + 3 * k) :
    memRead (storePixels y c k m') a = memRead (storePixels x c k m) a := by
  induction k with
  | zero => omega
  | succ k ih =>
    rw [storePixels, storePixels, hxy k (Nat.lt_succ_self k), memRead_storePixel, memRead_storePixel]
    by_cases hold : a < c + 3 * k
    · rw [ih (fun n hn => hxy n (Nat.lt_succ_of_lt hn)) hold]
    · have hplace : a = c + 3 * k + 2 ∨ a = c + 3 * k + 1 ∨ a = c + 3 * k := by omega
      rcases hplace with rfl | rfl | rfl <;> simp

/-- A target has one luma byte for each pixel and two chroma bytes for each group (R126 to R140). -/
theorem yuvBytes_eq_add_groupCount (dst : YuvTag) (p : Nat) (hd : p % yuvDivisor dst = 0) :
    yuvBytes dst p = p + groupCount dst p + groupCount dst p := by
  cases dst <;> simp only [yuvDivisor, groupCount, subsampling, yuvBytes] at * <;> omega

/-- The offsets of all samples of a target: luma, U and V. -/
def sampleOffsets (dst : YuvTag) (p : Nat) : Finset Nat :=
  (Finset.range p).image (lumaOffset dst) ∪ (Finset.range (groupCount dst p)).image (chromaUOffset dst p) ∪
    (Finset.range (groupCount dst p)).image (chromaVOffset dst p)

theorem mem_sampleOffsets (dst : YuvTag) (p j : Nat) :
    j ∈ sampleOffsets dst p ↔
      (∃ n, n < p ∧ lumaOffset dst n = j) ∨ (∃ g, g < groupCount dst p ∧ chromaUOffset dst p g = j) ∨
        ∃ g, g < groupCount dst p ∧ chromaVOffset dst p g = j := by
  simp [sampleOffsets]

/-- No two samples share an offset, so there are as many offsets as samples. -/
theorem card_sampleOffsets (dst : YuvTag) (p : Nat) (hd : p % yuvDivisor dst = 0) :
    (sampleOffsets dst p).card = p + groupCount dst p + groupCount dst p := by
  have hlumaU : Disjoint ((Finset.range p).image (lumaOffset dst))
      ((Finset.range (groupCount dst p)).image (chromaUOffset dst p)) := by
    simp only [Finset.disjoint_left, Finset.mem_image, Finset.mem_range]
    rintro - ⟨n, hn, rfl⟩ ⟨g, -, hg⟩
    exact lumaOffset_ne_U dst p n g hn hg.symm
  have hchromaV : Disjoint ((Finset.range p).image (lumaOffset dst) ∪
      (Finset.range (groupCount dst p)).image (chromaUOffset dst p))
      ((Finset.range (groupCount dst p)).image (chromaVOffset dst p)) := by
    simp only [Finset.disjoint_left, Finset.mem_union, Finset.mem_image, Finset.mem_range]
    rintro - (⟨n, hn, rfl⟩ | ⟨g, hg, rfl⟩) ⟨e, he, hV⟩
    · exact lumaOffset_ne_V dst p n e hn hV.symm
    · exact chromaUOffset_ne_V dst p g e hd hg he hV.symm
  rw [sampleOffsets, Finset.card_union_of_disjoint hchromaV, Finset.card_union_of_disjoint hlumaU,
    Finset.card_image_of_injective _ (lumaOffset_inj dst), Finset.card_image_of_injective _ (chromaUOffset_inj dst p),
    Finset.card_image_of_injective _ (chromaVOffset_inj dst p), Finset.card_range, Finset.card_range]

/-- Every byte of a target is a sample: the samples' offsets lie in the target and are as many as its bytes. -/
theorem sampleOffsets_eq_range (dst : YuvTag) (p : Nat) (hd : p % yuvDivisor dst = 0) :
    sampleOffsets dst p = Finset.range (yuvBytes dst p) := by
  refine Finset.eq_of_subset_of_card_le (fun j hj => Finset.mem_range.mpr ?_) ?_
  · rcases (mem_sampleOffsets dst p j).mp hj with ⟨n, hn, rfl⟩ | ⟨g, hg, rfl⟩ | ⟨g, hg, rfl⟩
    · exact lumaOffset_lt dst p n hn hd
    · exact chromaUOffset_lt dst p g hd hg
    · exact chromaVOffset_lt dst p g hd hg
  · rw [Finset.card_range, card_sampleOffsets dst p hd, yuvBytes_eq_add_groupCount dst p hd]

/-- A byte of the destination comes from the samples alone, whatever the memory and the accumulators held. -/
theorem memRead_writerRun_congr (dst : YuvTag) (w h d a : Nat) (x : Nat → Yuv) (t t' : WriterState)
    (hf : DimsFit dst w h) (hd : w * h % yuvDivisor dst = 0) (hlow : d ≤ a)
    (hhigh : a < d + yuvBytes dst (w * h)) :
    memRead (writerRun dst w (w * h) d x (w * h) t').mem a =
      memRead (writerRun dst w (w * h) d x (w * h) t).mem a := by
  obtain ⟨j, rfl⟩ := Nat.exists_eq_add_of_le hlow
  have hsample : j ∈ sampleOffsets dst (w * h) := by
    rw [sampleOffsets_eq_range dst _ hd, Finset.mem_range]
    omega
  rcases (mem_sampleOffsets dst _ j).mp hsample with ⟨n, hn, rfl⟩ | ⟨g, hg, rfl⟩ | ⟨g, hg, rfl⟩
  · rw [writerRun_luma dst w h d x t hf hd n hn, writerRun_luma dst w h d x t' hf hd n hn]
  · obtain ⟨hu, -⟩ := writerRun_chroma dst w h d x t hf hd g hg
    obtain ⟨hu', -⟩ := writerRun_chroma dst w h d x t' hf hd g hg
    exact BitVec.eq_of_toNat_eq (hu'.trans hu.symm)
  · obtain ⟨-, hv⟩ := writerRun_chroma dst w h d x t hf hd g hg
    obtain ⟨-, hv'⟩ := writerRun_chroma dst w h d x t' hf hd g hg
    exact BitVec.eq_of_toNat_eq (hv'.trans hv.symm)

/-! ### What a command leaves, by its check -/

section Checked
variable (s : State) (c : Command) (hidle : s.status.busy = false)
include hidle

theorem perform_eq_begin (hend : (s.begin c).status.busy = false) : s.perform c = s.begin c := by
  simp [State.perform, hidle, hend]

/-- A command that passes its checks completes (R26, R248). -/
theorem perform_status_of_checked (hnone : issueCheck c s.cfg (s.latchOf c.word) = none) :
    (s.perform c).status = .doneOnly := by
  rcases begin_cases s c with ⟨e, he, -⟩ | ⟨-, ⟨-, hb⟩ | ⟨t, -, hb⟩ | ⟨src, hc, -⟩ | ⟨src, dst, hc, -⟩⟩
  · exact nomatch hnone.symm.trans he
  · rw [perform_eq_begin s c hidle (by rw [hb]; rfl), hb]
    rfl
  · rw [perform_eq_begin s c hidle (by rw [hb]; rfl), hb]
    rfl
  · exact (completedFrame_of_accepted s c hidle (.inl ⟨src, hc⟩) hnone).status
  · exact (completedFrame_of_accepted s c hidle (.inr ⟨src, dst, hc⟩) hnone).status

/-- A command that ends with DONE passed its checks (R262). -/
theorem issueCheck_none_of_done_set (hdone : (s.perform c).status.done = true) :
    issueCheck c s.cfg (s.latchOf c.word) = none := by
  rcases perform_status s c hidle with hstatus | ⟨e, hstatus⟩
  · exact issueCheck_none_of_done s c hidle hstatus
  · rw [hstatus] at hdone
    exact absurd hdone Bool.false_ne_true

end Checked

/-- RESULT after a REQBYTES that passes its check (R141). -/
theorem perform_reqbytes_result (s : State) (g : Tag) (hidle : s.status.busy = false)
    (hnone : issueCheck (.reqbytes g) s.cfg (s.latchOf (Command.reqbytes g).word) = none) :
    (s.perform (.reqbytes g)).result = BitVec.ofNat 34 (requiredBytes g s.pixels) := by
  have hbegin : s.begin (.reqbytes g) =
      { (s.issue (Command.reqbytes g).word).complete with result := BitVec.ofNat 34 (requiredBytes g s.pixels) } := by
    simp [State.begin, hnone]
  rw [perform_eq_begin s _ hidle (by rw [hbegin]; rfl), hbegin]

/-- CAN_PTR after a NORMALIZE that passes its checks (R29, R156). -/
theorem perform_normalize_canPtr (s : State) (src : RgbTag) (hidle : s.status.busy = false)
    (hnone : issueCheck (.normalize src) s.cfg (s.latchOf (Command.normalize src).word) = none) :
    (s.perform (.normalize src)).canPtr = if src = .rgb888 then s.srcAddr else s.canAddr := by
  by_cases hsrc : src = .rgb888
  · subst hsrc
    obtain ⟨hptr, -⟩ := perform_normalize_rgb888 s hidle ((issueCheck_normalize_rgb888_none s _).mp hnone)
    exact hptr
  · obtain ⟨hptr, -⟩ := perform_normalize_packed s src hsrc ((issueCheck_normalize_none s src _ hidle hsrc).mp hnone)
    rw [if_neg hsrc, hptr]

/-! ### Source ranges, in the host's registers (R24, R66) -/

theorem sourceRange_normalize (s : State) (src : RgbTag) (k : Word) :
    sourceRange (.normalize src) (s.latchOf k) = (s.srcAddr.toNat, rgbBytes src s.pixels) := by
  rw [sourceRange, latchOf_p]
  rfl

theorem sourceRange_convert (s : State) (src : RgbTag) (dst : YuvTag) (k : Word) :
    sourceRange (.convert src dst) (s.latchOf k) = (s.srcAddr.toNat, rgbBytes src s.pixels) := by
  rw [sourceRange, latchOf_p]
  rfl

/-! ### Two states with the same operands and the same source -/

/-- Two IDLE states of one configuration that latch the same operands for `c` and agree on its source range. -/
structure SameInputs (c : Command) (s s' : State) : Prop where
  idle : s.status.busy = false
  idle' : s'.status.busy = false
  cfg : s'.cfg = s.cfg
  latched : s'.latchOf c.word = s.latchOf c.word
  source : ∀ a, (sourceRange c (s.latchOf c.word)).1 ≤ a →
    a < (sourceRange c (s.latchOf c.word)).1 + (sourceRange c (s.latchOf c.word)).2 →
    memRead s'.mem a = memRead s.mem a

namespace SameInputs
variable {c : Command} {s s' : State} {src : RgbTag} {dst : YuvTag}

theorem width (h : SameInputs c s s') : s'.width = s.width := congrArg Latched.w h.latched
theorem height (h : SameInputs c s s') : s'.height = s.height := congrArg Latched.h h.latched
theorem srcAddr (h : SameInputs c s s') : s'.srcAddr = s.srcAddr := congrArg Latched.s h.latched
theorem canAddr (h : SameInputs c s s') : s'.canAddr = s.canAddr := congrArg Latched.c h.latched
theorem dstAddr (h : SameInputs c s s') : s'.dstAddr = s.dstAddr := congrArg Latched.d h.latched

theorem pixels (h : SameInputs c s s') : s'.pixels = s.pixels := by
  rw [State.pixels, State.pixels, h.width, h.height]

theorem issueCheck_eq (h : SameInputs c s s') :
    issueCheck c s'.cfg (s'.latchOf c.word) = issueCheck c s.cfg (s.latchOf c.word) := by
  rw [h.cfg, h.latched]

/-- The checks read the configuration and the operands alone, so both commands end alike (R263). -/
theorem status_eq (h : SameInputs c s s') : (s'.perform c).status = (s.perform c).status := by
  have hcheck := h.issueCheck_eq
  cases hs : issueCheck c s.cfg (s.latchOf c.word) with
  | none =>
    rw [hs] at hcheck
    rw [perform_status_of_checked s' c h.idle' hcheck, perform_status_of_checked s c h.idle hs]
  | some e =>
    rw [hs] at hcheck
    rw [perform_refused s' c e h.idle' hcheck, perform_refused s c e h.idle hs, State.refuse_status,
      State.refuse_status, issued_refused _ e h.idle', issued_refused _ e h.idle]

/-- `Norm` of both states, for a command whose source is read with `src` (R66). -/
theorem norm_eq (h : SameInputs c s s')
    (hrange : sourceRange c (s.latchOf c.word) = (s.srcAddr.toNat, rgbBytes src s.pixels)) (n : Nat)
    (hn : n < s.pixels) :
    norm s'.cfg s'.mem src s'.srcAddr.toNat n = norm s.cfg s.mem src s.srcAddr.toNat n := by
  have hsource := h.source
  rw [hrange] at hsource
  rw [h.cfg, h.srcAddr]
  exact norm_congr s.cfg s.mem s'.mem src _ s.pixels n hn hsource

theorem result_eq {g : Tag} (h : SameInputs (.reqbytes g) s s')
    (hnone : issueCheck (.reqbytes g) s.cfg (s.latchOf (Command.reqbytes g).word) = none) :
    (s'.perform (.reqbytes g)).result = (s.perform (.reqbytes g)).result := by
  rw [perform_reqbytes_result s' g h.idle' (h.issueCheck_eq.trans hnone), perform_reqbytes_result s g h.idle hnone,
    h.pixels]

theorem canPtr_eq (h : SameInputs (.normalize src) s s')
    (hnone : issueCheck (.normalize src) s.cfg (s.latchOf (Command.normalize src).word) = none) :
    (s'.perform (.normalize src)).canPtr = (s.perform (.normalize src)).canPtr := by
  rw [perform_normalize_canPtr s' src h.idle' (h.issueCheck_eq.trans hnone),
    perform_normalize_canPtr s src h.idle hnone, h.srcAddr, h.canAddr]

/-- Both canonical arrays are stored from the same pixels (R156). -/
theorem normalize_memRead_eq (h : SameInputs (.normalize src) s s') (hpacked : src ≠ .rgb888)
    (hnone : issueCheck (.normalize src) s.cfg (s.latchOf (Command.normalize src).word) = none) (a : Nat)
    (hlow : s.canAddr.toNat ≤ a) (hhigh : a < s.canAddr.toNat + 3 * s.pixels) :
    memRead (s'.perform (.normalize src)).mem a = memRead (s.perform (.normalize src)).mem a := by
  have hready := (issueCheck_normalize_none s src _ h.idle hpacked).mp hnone
  have hready' := (issueCheck_normalize_none s' src _ h.idle' hpacked).mp (h.issueCheck_eq.trans hnone)
  obtain ⟨-, hmem, -⟩ := perform_normalize_packed s src hpacked hready
  obtain ⟨-, hmem', -⟩ := perform_normalize_packed s' src hpacked hready'
  rw [hmem, hmem', h.canAddr, h.pixels]
  exact memRead_storePixels_congr _ _ _ _ _ _ _ (h.norm_eq (sourceRange_normalize s src _)) hlow hhigh

/-- Both destinations are written by a run of the writer over the same samples (R246). -/
theorem convert_memRead_eq (h : SameInputs (.convert src dst) s s')
    (hnone : issueCheck (.convert src dst) s.cfg (s.latchOf (Command.convert src dst).word) = none) (a : Nat)
    (hlow : s.dstAddr.toNat ≤ a) (hhigh : a < s.dstAddr.toNat + yuvBytes dst s.pixels) :
    memRead (s'.perform (.convert src dst)).mem a = memRead (s.perform (.convert src dst)).mem a := by
  have hready := (issueCheck_convert_none s src dst _ h.idle).mp hnone
  have hready' := (issueCheck_convert_none s' src dst _ h.idle').mp (h.issueCheck_eq.trans hnone)
  obtain ⟨-, -, hmem, -⟩ := perform_convert s src dst hready
  obtain ⟨-, -, hmem', -⟩ := perform_convert s' src dst hready'
  have hsamples (n : Nat) (hn : n < s.pixels) : s'.yuvAt src n = s.yuvAt src n := by
    rw [State.yuvAt, State.yuvAt, h.norm_eq (sourceRange_convert s src dst _) n hn, h.cfg]
  rw [hmem, hmem', h.width, h.dstAddr, h.pixels, writerRun_congr _ _ _ _ _ _ _ _ hsamples]
  exact memRead_writerRun_congr dst _ _ _ _ _ _ _ hready.dims hready.divides hlow hhigh

/-- The write set, command by command; those that store no pixel have none. -/
theorem writeRange_memRead_eq (h : SameInputs c s s') (hnone : issueCheck c s.cfg (s.latchOf c.word) = none) (a : Nat)
    (hlow : (writeRange c (s.latchOf c.word)).1 ≤ a)
    (hhigh : a < (writeRange c (s.latchOf c.word)).1 + (writeRange c (s.latchOf c.word)).2) :
    memRead (s'.perform c).mem a = memRead (s.perform c).mem a := by
  cases c with
  | nop => exact absurd hhigh (Nat.not_lt.mpr hlow)
  | reqbytes g => exact absurd hhigh (Nat.not_lt.mpr hlow)
  | normalize src =>
    by_cases hsrc : src = .rgb888
    · subst hsrc
      exact absurd hhigh (Nat.not_lt.mpr hlow)
    · rw [writeRange_normalize src _ hsrc, latchOf_p] at hhigh
      rw [writeRange_normalize src _ hsrc] at hlow
      exact h.normalize_memRead_eq hsrc hnone a hlow hhigh
  | convert src dst =>
    rw [writeRange_convert] at hlow hhigh
    exact h.convert_memRead_eq hnone a hlow hhigh

end SameInputs

/-- Settles O43: the two states are `SameInputs` of the command, and a command that ends with DONE passed its checks. -/
theorem resultDependsOnlyOnOperandsAndSource : Obligations.ResultDependsOnlyOnOperandsAndSource := by
  intro i s s' hidle hidle' hcfg hlatched hsource
  have h : SameInputs i.command s s' := ⟨hidle, hidle', hcfg, hlatched, hsource⟩
  refine ⟨_, _, exec_eq i s, exec_eq i s', h.status_eq, fun hdone => ?_⟩
  have hnone := issueCheck_none_of_done_set s i.command hidle hdone
  refine ⟨fun g hg => ?result, fun src hsrc => ?canPtr, h.writeRange_memRead_eq hnone⟩
  case result =>
    rw [hg] at h hnone ⊢
    exact h.result_eq hnone
  case canPtr =>
    rw [hsrc] at h hnone ⊢
    exact h.canPtr_eq hnone

end Sys2Proof.Machine
end

section
/-! PROOFS. Family 45_dispatcher.md, one pixel of a CONVERT: what it does to the accumulators and the memory (R246, R36,
R241). -/

namespace Sys2Proof.Machine

/-! ### 4:4:4: a pixel is its own group -/

/-- The two chroma bytes of a 4:4:4 pixel stand side by side. -/
theorem chromaUOffset_ne_V_full (dst : YuvTag) (p n : Nat) (hfull : subsampling dst = .s444) :
    chromaUOffset dst p n ≠ chromaVOffset dst p n := by
  cases dst <;> simp [subsampling, chromaUOffset, chromaVOffset] at *

section Full
variable (dst : YuvTag) (w p d n : Nat) (x : Yuv) (t : WriterState) (hfull : subsampling dst = .s444)
include hfull

theorem writePixel_full_memRead (a : Nat) :
    memRead (writePixel dst w p d n x t).mem a =
      if a = d + chromaVOffset dst p n then x.v else if a = d + chromaUOffset dst p n then x.u
      else if a = d + lumaOffset dst n then x.y else memRead t.mem a := by
  rw [writePixel_full dst w p d n x t hfull]
  simp only [writeFullChroma, memRead_write]

theorem writePixel_full_accumulators :
    (writePixel dst w p d n x t).accU = t.accU ∧ (writePixel dst w p d n x t).accV = t.accV := by
  rw [writePixel_full dst w p d n x t hfull]
  exact ⟨rfl, rfl⟩

theorem writePixel_full_frame (a : Nat)
    (ha : a ∉ [d + lumaOffset dst n, d + chromaUOffset dst p n, d + chromaVOffset dst p n]) :
    memRead (writePixel dst w p d n x t).mem a = memRead t.mem a := by
  simp only [List.mem_cons, List.not_mem_nil, or_false, not_or] at ha
  obtain ⟨hluma, hu, hv⟩ := ha
  rw [writePixel_full_memRead dst w p d n x t hfull, if_neg hv, if_neg hu, if_neg hluma]

theorem writePixel_full_chroma :
    memRead (writePixel dst w p d n x t).mem (d + chromaUOffset dst p n) = x.u ∧
    memRead (writePixel dst w p d n x t).mem (d + chromaVOffset dst p n) = x.v := by
  have hUV := chromaUOffset_ne_V_full dst p n hfull
  rw [writePixel_full_memRead dst w p d n x t hfull, writePixel_full_memRead dst w p d n x t hfull,
    if_neg (by omega), if_pos rfl, if_pos rfl]
  exact ⟨rfl, rfl⟩

end Full

/-! ### Subsampled: a pixel of the group that `groupStep` names -/

section Subsampled
variable (dst : YuvTag) (w p d n : Nat) (x : Yuv) (t : WriterState) {g : GroupStep}
  (hsub : subsampling dst ≠ .s444) (hg : groupStep (subsampling dst) w n = g)
include hsub hg

theorem writePixel_accumulators (j : Nat) :
    sparseRead (writePixel dst w p d n x t).accU j =
      (if j = g.entry then accumulated g t.accU x.u else sparseRead t.accU j) ∧
    sparseRead (writePixel dst w p d n x t).accV j =
      (if j = g.entry then accumulated g t.accV x.v else sparseRead t.accV j) := by
  rw [writePixel_subsampled dst w p d n x t hsub, hg]
  obtain ⟨hu, hv, -, -⟩ := writeChroma_eq dst p d g x { t with mem := memWrite t.mem (d + lumaOffset dst n) x.y }
  rw [hu, hv, sparseRead_write, sparseRead_write]
  exact ⟨rfl, rfl⟩

/-- The group's first pixel seeds its entry (R36). -/
theorem writePixel_seeds (hfirst : g.first = true) :
    sparseRead (writePixel dst w p d n x t).accU g.entry = x.u.setWidth 12 ∧
    sparseRead (writePixel dst w p d n x t).accV g.entry = x.v.setWidth 12 := by
  obtain ⟨hu, hv⟩ := writePixel_accumulators dst w p d n x t hsub hg g.entry
  rw [hu, hv, if_pos rfl, if_pos rfl, accumulated, accumulated, if_pos hfirst, if_pos hfirst]
  exact ⟨rfl, rfl⟩

/-- The other pixels add to it (R36). -/
theorem writePixel_adds (hfirst : ¬ g.first = true) :
    sparseRead (writePixel dst w p d n x t).accU g.entry = sparseRead t.accU g.entry + x.u.setWidth 12 ∧
    sparseRead (writePixel dst w p d n x t).accV g.entry = sparseRead t.accV g.entry + x.v.setWidth 12 := by
  obtain ⟨hu, hv⟩ := writePixel_accumulators dst w p d n x t hsub hg g.entry
  rw [hu, hv, if_pos rfl, if_pos rfl, accumulated, accumulated, if_neg hfirst, if_neg hfirst]
  exact ⟨rfl, rfl⟩

theorem writePixel_other_entries (j : Nat) (hj : j ≠ g.entry) :
    sparseRead (writePixel dst w p d n x t).accU j = sparseRead t.accU j ∧
    sparseRead (writePixel dst w p d n x t).accV j = sparseRead t.accV j := by
  obtain ⟨hu, hv⟩ := writePixel_accumulators dst w p d n x t hsub hg j
  rw [hu, hv, if_neg hj, if_neg hj]
  exact ⟨rfl, rfl⟩

/-- A pixel that is not its group's last stores its luma byte (R246). -/
theorem writePixel_open_memRead (hlast : ¬ g.last = true) (a : Nat) :
    memRead (writePixel dst w p d n x t).mem a = if a = d + lumaOffset dst n then x.y else memRead t.mem a := by
  rw [writePixel_subsampled dst w p d n x t hsub, hg]
  obtain ⟨-, -, hkept, -⟩ := writeChroma_eq dst p d g x { t with mem := memWrite t.mem (d + lumaOffset dst n) x.y }
  rw [hkept (Bool.eq_false_iff.mpr hlast), memRead_write]

theorem writePixel_open_frame (hlast : ¬ g.last = true) (a : Nat) (ha : a ∉ [d + lumaOffset dst n]) :
    memRead (writePixel dst w p d n x t).mem a = memRead t.mem a := by
  rw [List.mem_singleton] at ha
  rw [writePixel_open_memRead dst w p d n x t hsub hg hlast, if_neg ha]

/-- A group's last pixel stores its luma byte and the averages of both entries as it leaves them (R246). -/
theorem writePixel_last_memRead (hlast : g.last = true) (a : Nat) :
    memRead (writePixel dst w p d n x t).mem a =
      if a = d + chromaVOffset dst p g.group then averageByte (accumulated g t.accV x.v) g.shift
      else if a = d + chromaUOffset dst p g.group then averageByte (accumulated g t.accU x.u) g.shift
      else if a = d + lumaOffset dst n then x.y else memRead t.mem a := by
  rw [writePixel_subsampled dst w p d n x t hsub, hg]
  obtain ⟨-, -, -, hstored⟩ := writeChroma_eq dst p d g x { t with mem := memWrite t.mem (d + lumaOffset dst n) x.y }
  rw [hstored hlast, memRead_write, memRead_write, memRead_write]

theorem writePixel_last_frame (hlast : g.last = true) (a : Nat)
    (ha : a ∉ [d + lumaOffset dst n, d + chromaUOffset dst p g.group, d + chromaVOffset dst p g.group]) :
    memRead (writePixel dst w p d n x t).mem a = memRead t.mem a := by
  simp only [List.mem_cons, List.not_mem_nil, or_false, not_or] at ha
  obtain ⟨hluma, hu, hv⟩ := ha
  rw [writePixel_last_memRead dst w p d n x t hsub hg hlast, if_neg hv, if_neg hu, if_neg hluma]

/-- In a whole image U and V stand at different places, so both averages are read back as the shifted sums that the
entries hold after the pixel (R246, log 19). -/
theorem writePixel_averages (hlast : g.last = true) {h : Nat} (hp : p = w * h) (hn : n < p)
    (hd : p % yuvDivisor dst = 0) (hfit : DimsFit dst w h) :
    (memRead (writePixel dst w p d n x t).mem (d + chromaUOffset dst p g.group)).toNat =
      (sparseRead (writePixel dst w p d n x t).accU g.entry).toNat / 2 ^ g.shift % 256 ∧
    (memRead (writePixel dst w p d n x t).mem (d + chromaVOffset dst p g.group)).toNat =
      (sparseRead (writePixel dst w p d n x t).accV g.entry).toNat / 2 ^ g.shift % 256 := by
  have hgroup : g.group < groupCount dst p := by
    subst hp hg
    exact group_lt dst w h n hfit hd hn
  have hUV := chromaUOffset_ne_V dst p g.group g.group hd hgroup hgroup
  obtain ⟨hu, hv⟩ := writePixel_accumulators dst w p d n x t hsub hg g.entry
  rw [if_pos rfl] at hu hv
  rw [hu, hv, writePixel_last_memRead dst w p d n x t hsub hg hlast,
    writePixel_last_memRead dst w p d n x t hsub hg hlast, if_neg (by omega), if_pos rfl, if_pos rfl]
  exact ⟨averageByte_toNat _ _, averageByte_toNat _ _⟩

end Subsampled

/-! ### Every target -/

/-- The luma byte of a pixel of an image: no chroma byte stands at its place (R190). -/
theorem writePixel_luma (dst : YuvTag) (w p d n : Nat) (x : Yuv) (t : WriterState) (hn : n < p) :
    memRead (writePixel dst w p d n x t).mem (d + lumaOffset dst n) = x.y := by
  have hU (g : Nat) : d + lumaOffset dst n ≠ d + chromaUOffset dst p g :=
    fun h => lumaOffset_ne_U dst p n g hn (Nat.add_left_cancel h)
  have hV (g : Nat) : d + lumaOffset dst n ≠ d + chromaVOffset dst p g :=
    fun h => lumaOffset_ne_V dst p n g hn (Nat.add_left_cancel h)
  by_cases hfull : subsampling dst = .s444
  · rw [writePixel_full_memRead dst w p d n x t hfull, if_neg (hV n), if_neg (hU n), if_pos rfl]
  · by_cases hlast : (groupStep (subsampling dst) w n).last = true
    · rw [writePixel_last_memRead dst w p d n x t hfull rfl hlast, if_neg (hV _), if_neg (hU _), if_pos rfl]
    · rw [writePixel_open_memRead dst w p d n x t hfull rfl hlast, if_pos rfl]

/-- Settles O37: the pixel is one of the writer; for a subsampled class the flags of its `groupStep` are the conditions
of the rule. -/
theorem accumulatorSeedAndAdd : Obligations.AccumulatorSeedAndAdd := by
  intro s src dst t x n w r c p luma uAt vAt onlyChanged whole group
  have hgroup (hsub : subsampling dst ≠ .s444) (seed last : Prop)
      (hseed : (groupStep (subsampling dst) w n).first = true ↔ seed)
      (hlast : (groupStep (subsampling dst) w n).last = true ↔ last) :
      group (groupStep (subsampling dst) w n).entry seed last (groupStep (subsampling dst) w n).group
        (groupStep (subsampling dst) w n).shift :=
    ⟨fun hfirst => writePixel_seeds dst w p _ n x _ hsub rfl (hseed.mpr hfirst),
      fun hfirst => writePixel_adds dst w p _ n x ⟨s.mem, s.accU, s.accV⟩ hsub rfl (mt hseed.mp hfirst),
      writePixel_other_entries dst w p _ n x _ hsub rfl,
      fun hopen => writePixel_open_frame dst w p _ n x _ hsub rfl (mt hlast.mp hopen),
      fun hend => ⟨writePixel_last_frame dst w p _ n x _ hsub rfl (hlast.mpr hend),
        fun ⟨hp, hn, hd, hfit⟩ => writePixel_averages dst w p _ n x _ hsub rfl (hlast.mpr hend) hp hn hd hfit⟩⟩
  refine ⟨State.pixelStep_pixel s _, fun ⟨_, hn, _⟩ => writePixel_luma dst w p _ n x _ hn, ?_⟩
  cases hs : subsampling dst <;> simp only [hs] at hgroup
  case s444 =>
    obtain ⟨hu, hv⟩ := writePixel_full_accumulators dst w p s.latched.d.toNat n x ⟨s.mem, s.accU, s.accV⟩ hs
    exact ⟨hu, hv, writePixel_full_frame dst w p _ n x _ hs, writePixel_full_chroma dst w p _ n x _ hs⟩
  case s422 => exact hgroup nofun _ _ beq_iff_eq beq_iff_eq
  case s411 => exact hgroup nofun _ _ beq_iff_eq beq_iff_eq
  case s420 => exact hgroup nofun _ _ (by simp [groupStep, r, c]) (by simp [groupStep, r, c])
  case s410 => exact hgroup nofun _ _ (by simp [groupStep, r, c]) (by simp [groupStep, r, c])

end Sys2Proof.Machine
end

section
/-! PROOFS. Family 60_exceptions.md: no instruction stops the machine (R269, R276), and the order in which the checks of
a CONVERT fail (R263, R265 to R268). -/

namespace Sys2Proof.Machine

/-! ### No instruction stops the machine -/

/-- Settles O6: an instruction is its command performed, and a refusal by the spec is itself a next state. -/
theorem noCommandStops : Obligations.NoCommandStops :=
  fun i s => ⟨s.perform i.command, exec_eq i s⟩

/-! ### The checks of a CONVERT, in order -/

section Checks
variable (s : State) {src : RgbTag} {dst : YuvTag} (k : Word)

/-- A pixel count, or a width and height, that the target does not take fails step 5 of R263 (R265). -/
theorem issueCheck_convert_eDim (hpair : (src, dst) ∈ s.cfg.supportedPairs)
    (hdims : ¬(s.pixels % yuvDivisor dst = 0 ∧ DimsFit dst s.width.toNat s.height.toNat)) :
    issueCheck (.convert src dst) s.cfg (s.latchOf k) = some .eDim := by
  rw [← blocksFit_iff] at hdims
  have hfails : s.pixels % yuvDivisor dst ≠ 0 ∨ blocksFit dst (s.latchOf k).w.toNat (s.latchOf k).h.toNat = false := by
    rwa [not_and_or, Bool.not_eq_true] at hdims
  simp [issueCheck, hpair, hfails]

/-- A CONVERT that passes steps 4 to 6 of R263 has only its ranges left to check, steps 7 and 8. -/
theorem issueCheck_convert_eq_rangeCheck (hpair : (src, dst) ∈ s.cfg.supportedPairs)
    (hdims : s.pixels % yuvDivisor dst = 0 ∧ DimsFit dst s.width.toNat s.height.toNat)
    (hsize : s.dstLen.toNat = yuvBytes dst s.pixels) :
    issueCheck (.convert src dst) s.cfg (s.latchOf k) =
      rangeCheck s.cfg.memSize (s.srcAddr.toNat, rgbBytes src s.pixels) (s.dstAddr.toNat, yuvBytes dst s.pixels) := by
  obtain ⟨hdivides, hfit⟩ := hdims
  have hblocks : blocksFit dst (s.latchOf k).w.toNat (s.latchOf k).h.toNat = true := (blocksFit_iff _ _ _).mpr hfit
  have hlen : (s.latchOf k).l.toNat = yuvBytes dst s.pixels := hsize
  rw [← sourceRange_convert s src dst k, ← writeRange_convert s src dst k]
  simp [issueCheck, hpair, hblocks, hlen, hdivides]

end Checks

/-- Settles O38: each clause is one failing check of R263, the earlier ones passed. -/
theorem convertRefusalsInOrder : Obligations.ConvertRefusalsInOrder := by
  intro src dst s hidle refused pair dims size ranges
  have hrefused (e : ErrorCode)
      (hcheck : issueCheck (.convert src dst) s.cfg (s.latchOf (Command.convert src dst).word) = some e) :
      refused e.number := exec_eq_refusedWith s _ e hidle hcheck
  refine ⟨fun hpair => ?unsupported, fun hpair hdims => ?dimensions, fun hpair hdims hsize => ?length,
    fun hpair hdims hsize houtside => ?range, fun hpair hdims hsize hinside hshared => ?shared⟩
  case unsupported =>
    have hexec := exec_convert_unsupported s src dst hidle hpair
    rwa [← encode_command_instr] at hexec
  case dimensions => exact hrefused .eDim (issueCheck_convert_eDim s _ hpair hdims)
  case length =>
    obtain ⟨hdivides, hfit⟩ := hdims
    exact hrefused .eSize (issueCheck_convert_eSize s src dst _ hpair hdivides hfit hsize)
  case range =>
    refine hrefused .eRange ?_
    rw [issueCheck_convert_eq_rangeCheck s _ hpair hdims hsize]
    exact rangeCheck_eRange _ _ _ houtside
  case shared =>
    obtain ⟨hsource, hdestination⟩ := hinside
    refine hrefused .eAlias ?_
    rw [issueCheck_convert_eq_rangeCheck s _ hpair hdims hsize]
    exact rangeCheck_eAlias _ _ _ hsource hdestination hshared

end Sys2Proof.Machine
end

section
/-! PROOFS. Family 70_reset_and_hazards.md, the host beside a running engine: register accesses while BUSY (R299) and
WAIT (R301). -/

namespace Sys2Proof.Machine

/-! ### Register accesses while BUSY -/

theorem writeReg_busy (s : State) (offset : Nat) (v : Word) (hbusy : s.status.busy = true) :
    s.writeReg offset v = s := by
  rcases writeReg_cases s offset v with h | ⟨hidle, -⟩
  · exact h
  · exact absurd (hidle.symm.trans hbusy) Bool.false_ne_true

theorem cmdWrite_busy (k : Word) (s : State) (hbusy : s.status.busy = true) : cmdWrite k s = .next s := by
  simp [cmdWrite, hbusy]

theorem cmdIssue_busy (k : Word) (s : State) (hbusy : s.status.busy = true) : cmdIssue k s = s := by
  simp [cmdIssue, hbusy]

/-- CMD is a register like the others here: its write is ignored too (R25, R299). -/
theorem writeGives_busy (s : State) (offset : Nat) (v : Word) (hbusy : s.status.busy = true)
    (haligned : offset % 4 = 0) : WriteGives s offset v s := by
  by_cases hcmd : offset = 0
  · subst hcmd
    rw [WriteGives, step_given_cmd, cmdWrite_busy v s hbusy]
  · rw [writeGives_iff_writeReg s offset v s hcmd haligned, writeReg_busy s offset v hbusy]

/-- Bit 0 of STATUS is BUSY (R26). -/
theorem statusWord_busy (t : Status) : t.word.toNat % 2 = t.busy.toNat := by
  have hword := statusWordLayout t
  have hbit := t.busy.toNat_le
  omega

/-- Settles O13: writes and issues are ignored; a read that shows BUSY = 1 returns no buffer to the host. -/
theorem registersWhileBusy : Obligations.RegistersWhileBusy := by
  intro s offset v hbusy haligned
  refine ⟨writeGives_busy s offset v hbusy haligned, ?issue, ?read, ?status⟩
  case issue => rw [step_given, serve, cmdIssue_busy v _ hbusy]
  case read =>
    have hread := readsAs_of_readReg s offset _ haligned rfl
    rwa [ReadsAs, if_neg (by simp [hbusy])] at hread
  case status =>
    calc s.status.word.toNat % 2 = s.status.busy.toNat := statusWord_busy s.status
      _ = 1 := by rw [hbusy]; rfl

/-! ### WAIT -/

/-- The engine's moves are no input and answer none (R33). -/
theorem engineStep_inbox_replies (s : State) :
    s.engineStep.inbox = s.inbox ∧ s.engineStep.replies = s.replies := by
  rcases engineStep_cases s with ⟨-, h⟩ | ⟨-, -, h⟩ | ⟨c, -, -, h⟩ <;> rw [h]
  · exact ⟨rfl, rfl⟩
  · exact ⟨rfl, rfl⟩
  · rcases advance_cases s c with ⟨-, -, h⟩ | ⟨-, -, h⟩ | ⟨-, h⟩ <;> rw [h] <;> simp

theorem engineSteps_inbox_replies (k : Nat) (s : State) :
    (State.engineSteps k s).inbox = s.inbox ∧ (State.engineSteps k s).replies = s.replies := by
  induction k generalizing s with
  | zero => exact ⟨rfl, rfl⟩
  | succ k ih =>
    obtain ⟨hinbox, hreplies⟩ := engineStep_inbox_replies s
    obtain ⟨hrestInbox, hrestReplies⟩ := ih s.engineStep
    exact ⟨hrestInbox.trans hinbox, hrestReplies.trans hreplies⟩

theorem run_succ_of_step (k : Nat) {s t : State} (h : step s = .next t) : core.run (k + 1) s = core.run k t := by
  have hcore : core.step s = .next t := h
  simp [Host.Core.run, hcore]

theorem step_wait_idle (s : State) (hidle : s.status.busy = false) : step (s.given .wait) = .next (s.readLogged 4) := by
  rw [step_given, serve, if_neg (by simp [hidle])]

/-- While BUSY a WAIT lets the engine move and stays the next input (R301, log 6). -/
theorem step_wait_busy (s : State) (hbusy : s.status.busy = true) :
    step (s.given .wait) = .next (s.engineStep.given .wait) := by
  rw [step_given, serve, if_pos hbusy, State.given, (engineStep_inbox_replies s).1]

/-- A WAIT is over as soon as the engine's own moves end in IDLE; its last step is the STATUS read (R301). -/
theorem run_wait_of_idle (k : Nat) (s : State) (hidle : (State.engineSteps k s).status.busy = false) :
    ∃ j, j ≤ k ∧ core.run (j + 1) (s.given .wait) = .next ((State.engineSteps k s).readLogged 4) := by
  induction k generalizing s with
  | zero => exact ⟨0, le_rfl, run_succ_of_step 0 (step_wait_idle s hidle)⟩
  | succ k ih =>
    cases hb : s.status.busy with
    | false =>
      rw [engineSteps_idle _ s hb]
      exact ⟨0, by omega, run_succ_of_step 0 (step_wait_idle s hb)⟩
    | true =>
      obtain ⟨j, hj, hrun⟩ := ih s.engineStep hidle
      exact ⟨j + 1, by omega, (run_succ_of_step (j + 1) (step_wait_busy s hb)).trans hrun⟩

/-- Settles O46: O45 gives the moves after which the engine is IDLE, `run_wait_of_idle` the WAIT that makes them. -/
theorem waitEnds : Obligations.WaitEnds := by
  intro s c hbusy hc
  have hidle := runningCommandCompletes s c hbusy hc
  obtain ⟨j, hj, hrun⟩ := run_wait_of_idle _ s hidle
  obtain ⟨hinbox, hreplies⟩ := engineSteps_inbox_replies (s.latched.p.toNat - s.pixel.toNat + 1) s
  refine ⟨j, _, hj, hrun, hidle, hinbox, ?_⟩
  rw [State.readLogged_replies, State.readLogged_status, hreplies]
  rfl

end Sys2Proof.Machine
end

section
/-! PROOFS. Family 70_reset_and_hazards.md, reset in mid-command: how far a running command has come, and what a reset
leaves of it in memory (R290, R291). -/

namespace Sys2Proof.Machine

/-! ### A command on its way -/

/-- An engine still BUSY after `k` moves has done `k` pixels, all of them pixels it had left (R33). -/
theorem engineSteps_busy (k : Nat) (s : State) (c : Command) (hc : s.running = some c)
    (hbusy : (State.engineSteps k s).status.busy = true) :
    State.engineSteps k s = State.pixelSteps c k s ∧ k ≤ s.latched.p.toNat - s.pixel.toNat := by
  induction k generalizing s with
  | zero => exact ⟨rfl, Nat.zero_le _⟩
  | succ k ih =>
    cases hb : s.status.busy with
    | false =>
      rw [engineSteps_idle _ s hb, hb] at hbusy
      exact absurd hbusy Bool.false_ne_true
    | true =>
      rw [engineSteps_succ, engineStep_running s c hb hc] at hbusy ⊢
      have notFinished (u : State) (h : s.advance c = u.finish c) : False := by
        rw [h, engineSteps_idle _ _ (finish_idle u c), finish_idle u c] at hbusy
        exact Bool.false_ne_true hbusy
      rcases advance_cases s c with ⟨hleft, -, h⟩ | ⟨-, -, h⟩ | ⟨-, h⟩
      · rw [h] at hbusy ⊢
        obtain ⟨hsteps, hk⟩ := ih (s.pixelStep c) (by rw [pixelStep_running, hc]) hbusy
        rw [State.pixelStep_latched, pixelStep_pixel_toNat s c hleft] at hk
        exact ⟨hsteps, by omega⟩
      · exact (notFinished _ h).elim
      · exact (notFinished _ h).elim

/-- An accepted command has written nothing outside its write set, however many of its pixels are done (R67, R68). -/
theorem pixelSteps_sameOutside (s : State) (c : Command) (k : Nat) (hidle : s.status.busy = false) (hc : c.PerPixel)
    (hnone : issueCheck c s.cfg (s.latchOf c.word) = none) (hk : k ≤ s.pixels) :
    SameOutside s.mem (State.pixelSteps c k ((s.issue c.word).start c)).mem (writeRange c (s.latchOf c.word)).1
      (writeRange c (s.latchOf c.word)).2 := by
  rcases hc with ⟨src, rfl⟩ | ⟨src, dst, rfl⟩
  · exact pixelSteps_normalize_sameOutside k ((s.issue _).start _) src (by simpa using hk)
  · have hready := (issueCheck_convert_none s src dst _ hidle).mp hnone
    have hp := latchOf_p s (Command.convert src dst).word
    have hrun := pixelSteps_convert ((s.issue (Command.convert src dst).word).start (.convert src dst)) src dst k
      rfl hp hready.dims
    simp only [State.start_latched, State.issue_latched, hp] at hrun
    rw [hrun hready.divides hready.apart hk, writeRange_convert]
    exact writerRun_sameOutside dst _ _ _ _ k _ hready.dims hready.divides hk

/-- The rest of an accepted command, run from where it stands, ends as the whole command does (R248). -/
theorem runToEnd_pixelSteps (s : State) (c : Command) (k : Nat) (hidle : s.status.busy = false) (hc : c.PerPixel)
    (hnone : issueCheck c s.cfg (s.latchOf c.word) = none) (hk : k ≤ s.pixels) :
    (State.pixelSteps c k ((s.issue c.word).start c)).runToEnd c = s.perform c := by
  have hlt := (s.latchOf c.word).p.isLt
  have hleft : (State.pixelSteps c k ((s.issue c.word).start c)).latched.p.toNat -
      (State.pixelSteps c k ((s.issue c.word).start c)).pixel.toNat = s.pixels - k := by
    rw [latchOf_p] at hlt
    have hmod : k % 4294967296 = k := Nat.mod_eq_of_lt (by omega)
    simp [pixelSteps_pixel, hmod]
  rw [State.runToEnd, hleft, ← pixelSteps_add, Nat.add_sub_of_le hk, perform_accepted s c hidle hc hnone]

/-- `t` is a command `c`, accepted in `s`, on its way: what a reset has to work with (R291). -/
structure Underway (s t : State) (c : Command) : Prop where
  busy : t.status.busy = true
  running : t.running = some c
  latched : t.latched = s.latchOf c.word
  before : t.before = s.mem
  rest : t.runToEnd c = s.perform c
  outside : SameOutside s.mem t.mem (writeRange c t.latched).1 (writeRange c t.latched).2

/-- A command issued while IDLE and still BUSY after any number of moves is on its way. -/
theorem underway_of_busy (s : State) (c : Command) (k : Nat) (hidle : s.status.busy = false)
    (hbusy : (State.engineSteps k (s.begin c)).status.busy = true) :
    Underway s (State.engineSteps k (s.begin c)) c := by
  have hstarted : (s.begin c).status.busy = true := by
    by_contra hnot
    rw [engineSteps_idle k _ (Bool.eq_false_of_not_eq_true hnot)] at hbusy
    exact hnot hbusy
  obtain ⟨hc, hnone⟩ := begin_busy s c hidle hstarted
  rw [begin_accepted s c hc hnone] at hbusy ⊢
  have hrunning : ((s.issue c.word).start c).running = some c := by simp [State.running, State.latchOf]
  obtain ⟨hsteps, hleft⟩ := engineSteps_busy k _ c hrunning hbusy
  have hk : k ≤ s.pixels := by simpa using hleft
  rw [hsteps] at hbusy ⊢
  have hlatched : (State.pixelSteps c k ((s.issue c.word).start c)).latched = s.latchOf c.word := by simp
  constructor
  case busy => exact hbusy
  case running => simp [State.running, State.latchOf]
  case latched => exact hlatched
  case before => simp
  case rest => exact runToEnd_pixelSteps s c k hidle hc hnone hk
  case outside =>
    rw [hlatched]
    exact pixelSteps_sameOutside s c k hidle hc hnone hk

/-! ### The reset -/

theorem applyReset_running_mem (t : State) (c : Command) (hbusy : t.status.busy = true) (hc : t.running = some c) :
    t.applyReset.mem = abandonedMem t (t.runToEnd c) (writeRange c t.latched) := by
  simp [State.applyReset, hbusy, hc]

/-- A byte of the write set is the old or the completed one by the free choice, any other is as it stands (log 9). -/
theorem memRead_abandonedMem (t u : State) (r : Nat × Nat) (a : Nat) :
    memRead (abandonedMem t u r) a = memRead t.before a ∨ memRead (abandonedMem t u r) a = memRead u.mem a ∨
      ¬(r.1 ≤ a ∧ a < r.1 + r.2) ∧ memRead (abandonedMem t u r) a = memRead t.mem a := by
  rw [abandonedMem, memRead_fill]
  by_cases hin : r.1 ≤ a ∧ a < r.1 + r.2
  · rw [if_pos hin, Nat.add_sub_of_le hin.1]
    split
    · exact .inl rfl
    · exact .inr (.inl rfl)
  · rw [if_neg hin]
    exact .inr (.inr ⟨hin, rfl⟩)

/-- A reset of a command on its way leaves each byte as before the command or as the whole command leaves it (R291). -/
theorem Underway.applyReset_memRead {s t : State} {c : Command} (h : Underway s t c) (a : Nat) :
    memRead t.applyReset.mem a = memRead s.mem a ∨ memRead t.applyReset.mem a = memRead (s.perform c).mem a := by
  rw [applyReset_running_mem t c h.busy h.running, h.rest]
  rcases memRead_abandonedMem t (s.perform c) (writeRange c t.latched) a with hold | hnew | ⟨hout, hkept⟩
  · exact .inl (by rw [hold, h.before])
  · exact .inr hnew
  · exact .inl (hkept.trans (h.outside a hout))

/-- Settles O50: the registers as O49 says of any reset, the bytes because the abandoned command is on its way. -/
theorem resetInMidCommand : Obligations.ResetInMidCommand := by
  intro i s t u k hidle hexec ht hbusy
  rw [exec_eq] at hexec
  cases hexec
  have hissue : cmdIssue (encode i) s = s.begin i.command := by simp [cmdIssue, hidle]
  rw [hissue] at ht
  subst ht
  have hunderway := underway_of_busy s i.command k hidle hbusy
  obtain ⟨r, hstep, -, hstatus, hwidth, hheight, hsrc, hcan, hdst, hlen, hresult, hptr, -⟩ :=
    resetClearsRegisters.2 (State.engineSteps k (s.begin i.command))
  have hr : (State.engineSteps k (s.begin i.command)).applyReset = r := by
    rw [step_given] at hstep
    exact Host.Outcome.next.inj hstep
  refine ⟨r, hstep, hstatus, hwidth, hheight, hsrc, hcan, hdst, hlen, hresult, hptr, fun a => ?_⟩
  rw [← hr]
  exact hunderway.applyReset_memRead a

end Sys2Proof.Machine
end
